-- ==== Sys2Proof/Word.lean ====
section
/-! DEFINITION. The widths of IRSD's values (spec/00_scope.md R5, R10): durations, pulses, bits, command and result
words. Every value is unsigned (R6, R11). -/

namespace Sys2Proof

/-- A duration: an unsigned 32-bit number of microseconds (`DUR_W` = 32, R5, R10). -/
abbrev Duration := BitVec 32

/-- The value of a register or of a 32-bit counter (`REG_W` = 32, R5). -/
abbrev RegValue := BitVec 32

/-- The address of a register (`REG_AW` = 8, R5). -/
abbrev RegAddr := BitVec 8

/-- A command word or a result word: 72 bits (`CMD_W`, `RES_W`, R5), numbered from 0, the least significant (R6). -/
abbrev Word72 := BitVec 72

/-- One demodulated bit: `true` is Hi, which counts as 1, and `false` is Lo, which counts as 0 (R9, R10). -/
abbrev Bit := Bool

/-- A pulse: a mark (carrier on) and then a space (carrier off) (R10). -/
structure Pulse where
  mark  : Duration
  space : Duration
  deriving DecidableEq, Repr

end Sys2Proof
end

