-- ==== Sys2Proof/Syntax.lean ====
section
/-! DEFINITION. The commands of IRSD (spec/30_encoding.md R71), the reasons a command is rejected (R91), and the command
text an assembler reads (R74, R75). -/

namespace Sys2Proof

/-- The five commands, one constructor per row of spec/opcode_table.json (R71). Every operand value is legal (R72), and
the operands' types are their fields' widths, so every term is a well-formed command. -/
inductive Instr where
  /-- NOP (R200). -/
  | nop
  /-- PULSE: `mark` = A, `space` = B (R72, R101). -/
  | pulse (mark space : Duration)
  /-- END (R104). -/
  | endStream
  /-- CLEAR (R202). -/
  | clear
  /-- READ_REG: `addr` = B[7:0] (R72, R203). -/
  | readReg (addr : RegAddr)
  deriving DecidableEq, Repr

/-- Why a command is rejected: CMD_ERROR.KIND (R91, R206). -/
inductive CmdErrorKind where
  | illegalOpcode
  | reservedNonzero
  | badRegAddr
  deriving DecidableEq, Repr

/-- The six data-bit pseudo-instructions of R75. -/
inductive BitPseudo where
  | aeha0 | aeha1 | nec0 | nec1 | sirc0 | sirc1
  deriving DecidableEq, Repr

/-- The pseudo-instructions of R75: the four leaders, and a data bit, plain or in its `.G` form (`gap = true`). -/
inductive Pseudo where
  | ldrAeha | ldrNec | ldrNecr | ldrSirc
  | dataBit (b : BitPseudo) (gap : Bool)
  deriving DecidableEq, Repr

/-- One line of command text, parsed (R74). Operands are unsigned numbers of any size: whether they fit their field is
`Source.wf`. `raw` is `.cmd`. -/
inductive Source where
  | nop
  | pulse (mark space : Nat)
  | endStream
  | clear
  | readReg (addr : Nat)
  | raw (word : Nat)
  | pseudo (p : Pseudo)
  deriving DecidableEq, Repr

end Sys2Proof
end

