-- ==== Sys2Proof/Decode.lean ====
section
/-! DEFINITION. The command word format (spec/30_encoding.md R70 to R73), the decoder, total on every 72-bit word and
rejecting by name, and the encoder. A command word arrives whole (spec/20_memory.md R53, R54), so the decoder reads a
72-bit word, not bytes. -/

namespace Sys2Proof

/-- OP, bits [71:64] of a command word (R70). -/
def opField (w : Word72) : BitVec 8 := w.extractLsb' 64 8

/-- Operand A, bits [63:32] of a command word (R70). -/
def aField (w : Word72) : BitVec 32 := w.extractLsb' 32 32

/-- Operand B, bits [31:0] of a command word (R70). -/
def bField (w : Word72) : BitVec 32 := w.extractLsb' 0 32

/-- B[7:0], the register address of READ_REG (R72), also reported by a BAD_REG_ADDR rejection (R91). -/
def addrField (w : Word72) : RegAddr := w.extractLsb' 0 8

/-- B[31:8], reserved in READ_REG (R71). -/
def bHighField (w : Word72) : BitVec 24 := w.extractLsb' 8 24

/-- Decode one command word: the first two checks of R206, in its order. An opcode of 0x05 or above is illegal whatever
its operands; a legal opcode with a non-zero reserved bit is refused (R73). -/
def decode (w : Word72) : Except CmdErrorKind Instr :=
  match (opField w).toNat with
  | 0x00 => if aField w = 0 ∧ bField w = 0 then .ok .nop else .error .reservedNonzero
  | 0x01 => .ok (.pulse (aField w) (bField w))
  | 0x02 => if aField w = 0 ∧ bField w = 0 then .ok .endStream else .error .reservedNonzero
  | 0x03 => if aField w = 0 ∧ bField w = 0 then .ok .clear else .error .reservedNonzero
  | 0x04 => if aField w = 0 ∧ bHighField w = 0 then .ok (.readReg (addrField w)) else .error .reservedNonzero
  | _ => .error .illegalOpcode

/-- A command word from its three fields (R70). -/
def commandWord (op : BitVec 8) (a b : BitVec 32) : Word72 := op ++ a ++ b

/-- The opcode of each command (R71). -/
def Instr.opcode : Instr → BitVec 8
  | .nop => 0x00
  | .pulse _ _ => 0x01
  | .endStream => 0x02
  | .clear => 0x03
  | .readReg _ => 0x04

/-- The command word of an instruction (R71): every reserved field zero, and READ_REG's address zero-extended to B. -/
def encode (i : Instr) : Word72 :=
  match i with
  | .nop => commandWord i.opcode 0 0
  | .pulse mark space => commandWord i.opcode mark space
  | .endStream => commandWord i.opcode 0 0
  | .clear => commandWord i.opcode 0 0
  | .readReg addr => commandWord i.opcode 0 (addr.setWidth 32)

/-- One row of spec/opcode_table.json: its name and which bits it fixes to what. -/
structure OpcodeRow where
  mnemonic : String
  pattern  : Word72
  mask     : Word72
  deriving DecidableEq, Repr

/-- The rows of spec/opcode_table.json: each mask covers the opcode and the reserved operand bits. -/
def opcodeRows : List OpcodeRow :=
  [ ⟨"NOP",      0x000000000000000000, 0xFFFFFFFFFFFFFFFFFF⟩,
    ⟨"PULSE",    0x010000000000000000, 0xFF0000000000000000⟩,
    ⟨"END",      0x020000000000000000, 0xFFFFFFFFFFFFFFFFFF⟩,
    ⟨"CLEAR",    0x030000000000000000, 0xFFFFFFFFFFFFFFFFFF⟩,
    ⟨"READ_REG", 0x040000000000000000, 0xFFFFFFFFFFFFFFFF00⟩ ]

/-- Whether a word has the bits a row fixes. -/
def OpcodeRow.fits (r : OpcodeRow) (w : Word72) : Bool := w &&& r.mask == r.pattern

/-- The command word whose bits, as spec/opcode_table.json numbers them, are the low `nbits` bits of `w`; every bit
above is 0. -/
def tableWord (nbits w : Nat) : Word72 := BitVec.ofNat 72 (w % 2 ^ nbits)

/-- The instruction the decoder reads from a word numbered as the opcode table numbers it, or none where it refuses. -/
def decodeTableWord (nbits w : Nat) : Option Instr := (decode (tableWord nbits w)).toOption

end Sys2Proof
end

