-- ==== Sys2Proof/Machine/Record.lean ====
section
/-! DEFINITION. The result words (spec/30_encoding.md R80 to R94): their records, their codes, their layouts, and a
decoder that refuses what IRSD never produces (spec/93_implementation_defined.md I12). -/

namespace Sys2Proof.Machine

/-- Protocol tags (R92, R10). -/
inductive Tag where
  | unknown | aeha | nec | sirc | necRepeat
  deriving DecidableEq, Repr

/-- Decode status of a frame (R93). -/
inductive Status where
  | ok | inputIsEmpty | unknownProtocol | insufficientInputData | frameOverflow
  deriving DecidableEq, Repr

/-- Missing-field ids (R94). -/
inductive FieldId where
  | noField | custom0 | custom1 | data0 | data1 | stop
  deriving DecidableEq, Repr

/-- SIRC variants (R88). -/
inductive SircVariant where
  | sirc12 | sirc15 | sirc20
  deriving DecidableEq, Repr

/-- Status of a stream (R89). -/
inductive StreamStatus where
  | ok | inputIsEmpty
  deriving DecidableEq, Repr

/-- The result records, one constructor per type (R81). -/
inductive Record where
  /-- FRAME_HDR (R82). -/
  | frameHdr (idx : BitVec 16) (tag : Tag) (status : Status) (field : FieldId) (pulseCount bitCount : BitVec 16)
  /-- BITS (R83). -/
  | bits (payload : BitVec 64)
  /-- RAW_PULSE (R84). -/
  | rawPulse (p : Pulse)
  /-- AEHA_INFO (R85). -/
  | aehaInfo (octetCount : BitVec 16) (lastBits : BitVec 4) (stop : Bit)
  /-- AEHA_OCTETS: lane `j` is bits [8j+7:8j] (R86). -/
  | aehaOctets (lanes : BitVec 64)
  /-- NEC_FIELDS (R87). -/
  | necFields (custom0 custom1 data0 data1 : BitVec 8) (stop : Bit)
  /-- SIRC_FIELDS (R88). -/
  | sircFields (command : BitVec 7) (address extended : BitVec 8) (variant : SircVariant)
  /-- STREAM_END (R89). -/
  | streamEnd (frames : BitVec 32) (status : StreamStatus)
  /-- REG_VALUE (R90). -/
  | regValue (addr : RegAddr) (value : RegValue)
  /-- CMD_ERROR (R91). -/
  | cmdError (opcode : BitVec 8) (kind : CmdErrorKind) (addr : RegAddr)
  deriving DecidableEq, Repr

/-- TAG codes (R92). -/
def Tag.code : Tag → BitVec 4
  | .unknown => 0
  | .aeha => 1
  | .nec => 2
  | .sirc => 3
  | .necRepeat => 4

/-- STATUS codes of FRAME_HDR (R93). -/
def Status.code : Status → BitVec 4
  | .ok => 0
  | .inputIsEmpty => 1
  | .unknownProtocol => 2
  | .insufficientInputData => 3
  | .frameOverflow => 4

/-- FIELD codes (R94). -/
def FieldId.code : FieldId → BitVec 4
  | .noField => 0
  | .custom0 => 1
  | .custom1 => 2
  | .data0 => 3
  | .data1 => 4
  | .stop => 5

/-- VARIANT codes (R88). -/
def SircVariant.code : SircVariant → BitVec 2
  | .sirc12 => 0
  | .sirc15 => 1
  | .sirc20 => 2

/-- STATUS codes of STREAM_END (R89). -/
def StreamStatus.code : StreamStatus → BitVec 4
  | .ok => 0
  | .inputIsEmpty => 1

/-- KIND codes of CMD_ERROR (R91). -/
def kindCode : CmdErrorKind → BitVec 4
  | .illegalOpcode => 1
  | .reservedNonzero => 2
  | .badRegAddr => 3

/-- A result word from its TYPE, bits [71:64], and its payload, bits [63:0] (R80). -/
def resultWord (ty : BitVec 8) (payload : BitVec 64) : Word72 := ty ++ payload

/-- TYPE, bits [71:64] of a result word (R80). -/
def typeField (w : Word72) : BitVec 8 := w.extractLsb' 64 8

/-- PAY, bits [63:0] of a result word (R80). -/
def payloadField (w : Word72) : BitVec 64 := w.extractLsb' 0 64

/-- The result word of a record. Each payload is written from its most significant field down; a literal 0 is a field
the layout does not name, which reads 0 (R80 to R91). -/
def Record.word : Record → Word72
  | .frameHdr idx tag status field pulseCount bitCount =>
    resultWord 0x01 (idx ++ tag.code ++ status.code ++ field.code ++ (0 : BitVec 4) ++ pulseCount ++ bitCount)
  | .bits payload => resultWord 0x02 payload
  | .rawPulse p => resultWord 0x03 (p.mark ++ p.space)
  | .aehaInfo octetCount lastBits stop =>
    resultWord 0x04 ((0 : BitVec 39) ++ BitVec.ofBool stop ++ (0 : BitVec 4) ++ lastBits ++ octetCount)
  | .aehaOctets lanes => resultWord 0x05 lanes
  | .necFields custom0 custom1 data0 data1 stop =>
    resultWord 0x06 ((0 : BitVec 31) ++ BitVec.ofBool stop ++ data1 ++ data0 ++ custom1 ++ custom0)
  | .sircFields command address extended variant =>
    resultWord 0x07 ((0 : BitVec 38) ++ variant.code ++ extended ++ address ++ (0 : BitVec 1) ++ command)
  | .streamEnd frames status => resultWord 0x08 (frames ++ (0 : BitVec 28) ++ status.code)
  | .regValue addr value => resultWord 0x09 ((0 : BitVec 24) ++ addr ++ value)
  | .cmdError opcode kind addr =>
    resultWord 0x0A ((0 : BitVec 40) ++ addr ++ (0 : BitVec 4) ++ kindCode kind ++ opcode)

/-- The tag of a TAG code; 5 to 15 are never produced (R92). -/
def Tag.ofCode (c : BitVec 4) : Option Tag :=
  match c.toNat with
  | 0 => some .unknown
  | 1 => some .aeha
  | 2 => some .nec
  | 3 => some .sirc
  | 4 => some .necRepeat
  | _ => none

/-- The status of a FRAME_HDR.STATUS code; 5 to 15 are never produced (R93). -/
def Status.ofCode (c : BitVec 4) : Option Status :=
  match c.toNat with
  | 0 => some .ok
  | 1 => some .inputIsEmpty
  | 2 => some .unknownProtocol
  | 3 => some .insufficientInputData
  | 4 => some .frameOverflow
  | _ => none

/-- The missing field of a FIELD code; 6 to 15 are never produced (R94). -/
def FieldId.ofCode (c : BitVec 4) : Option FieldId :=
  match c.toNat with
  | 0 => some .noField
  | 1 => some .custom0
  | 2 => some .custom1
  | 3 => some .data0
  | 4 => some .data1
  | 5 => some .stop
  | _ => none

/-- The variant of a VARIANT code; 3 is never produced (R88). -/
def SircVariant.ofCode (c : BitVec 2) : Option SircVariant :=
  match c.toNat with
  | 0 => some .sirc12
  | 1 => some .sirc15
  | 2 => some .sirc20
  | _ => none

/-- The status of a STREAM_END.STATUS code (R89). -/
def StreamStatus.ofCode (c : BitVec 4) : Option StreamStatus :=
  match c.toNat with
  | 0 => some .ok
  | 1 => some .inputIsEmpty
  | _ => none

/-- The kind of a CMD_ERROR.KIND code; 0 and 4 to 15 are never produced (R91). -/
def kindOfCode (c : BitVec 4) : Option CmdErrorKind :=
  match c.toNat with
  | 1 => some .illegalOpcode
  | 2 => some .reservedNonzero
  | 3 => some .badRegAddr
  | _ => none

/-- Read a result word back, field by field at the positions of R82 to R91. -/
def Record.readFields (w : Word72) : Option Record :=
  let p := payloadField w
  match (typeField w).toNat with
  | 0x01 => do
    let tag ← Tag.ofCode (p.extractLsb' 44 4)
    let status ← Status.ofCode (p.extractLsb' 40 4)
    let field ← FieldId.ofCode (p.extractLsb' 36 4)
    some (.frameHdr (p.extractLsb' 48 16) tag status field (p.extractLsb' 16 16) (p.extractLsb' 0 16))
  | 0x02 => some (.bits p)
  | 0x03 => some (.rawPulse ⟨p.extractLsb' 32 32, p.extractLsb' 0 32⟩)
  | 0x04 => some (.aehaInfo (p.extractLsb' 0 16) (p.extractLsb' 16 4) (p.getLsbD 24))
  | 0x05 => some (.aehaOctets p)
  | 0x06 => some (.necFields (p.extractLsb' 0 8) (p.extractLsb' 8 8) (p.extractLsb' 16 8) (p.extractLsb' 24 8)
      (p.getLsbD 32))
  | 0x07 => do
    let variant ← SircVariant.ofCode (p.extractLsb' 24 2)
    some (.sircFields (p.extractLsb' 0 7) (p.extractLsb' 8 8) (p.extractLsb' 16 8) variant)
  | 0x08 => do
    let status ← StreamStatus.ofCode (p.extractLsb' 0 4)
    some (.streamEnd (p.extractLsb' 32 32) status)
  | 0x09 => some (.regValue (p.extractLsb' 32 8) (p.extractLsb' 0 32))
  | 0x0A => do
    let kind ← kindOfCode (p.extractLsb' 8 4)
    some (.cmdError (p.extractLsb' 0 8) kind (p.extractLsb' 16 8))
  | _ => none

/-- The record of a result word, or none for a word IRSD never produces: an unlisted TYPE, an unlisted code, or a
payload bit set that the type's layout does not name (I12). -/
def Record.ofWord (w : Word72) : Option Record :=
  match Record.readFields w with
  | some r => if r.word = w then some r else none
  | none => none

end Sys2Proof.Machine
end

