-- ==== Sys2Proof/Machine/Operands.lean ====
section
/-! DEFINITION. Bit folding and packing (spec/00_scope.md R9, spec/20_memory.md R51, R52) and the frames and bit
sequences the pipeline passes between its stages (spec/00_scope.md R10). -/

namespace Sys2Proof.Machine

/-- `sat_N(v)`: the value stored into a saturating field of `n` bits (R7). -/
def satN (n v : Nat) : Nat := min v (2 ^ n - 1)

/-- `fold_lsb`: the value of a bit sequence whose first bit is the least significant (R9). -/
def foldLsb : List Bit → Nat
  | [] => 0
  | b :: bs => b.toNat + 2 * foldLsb bs

/-- `s[a..b)` with `b = a + len`, cut off at the end of `s` (R8). -/
def slice {α : Type} (s : List α) (a len : Nat) : List α := (s.drop a).take len

/-- The folded value of a slice, as a field of `n` bits. -/
def foldField (n : Nat) (bits : List Bit) (a len : Nat) : BitVec n := BitVec.ofNat n (foldLsb (slice bits a len))

/-- `ceil(a / b)`. -/
def ceilDiv (a b : Nat) : Nat := (a + b - 1) / b

/-- Eight octet lanes in one word: octet `j` at bits [8j+7:8j], a missing octet reads 0 (R52, R86). -/
def packOctets : List (BitVec 8) → Nat
  | [] => 0
  | o :: os => o.toNat + 256 * packOctets os

/-- `DemodulatedFrame` of R10: the tag, with a bit sequence for AEHA, NEC and SIRC and the raw pulses for UNKNOWN. -/
inductive DemodulatedFrame where
  | unknown (raw : List Pulse)
  | aeha (bits : List Bit)
  | nec (bits : List Bit)
  | sirc (bits : List Bit)
  | necRepeat
  deriving DecidableEq, Repr

/-- What `decode(tag, bits)` returns (spec/42_frame_decoder.md R160): a status, a missing-field id, and the decoded-field
result words. -/
structure Decoded where
  status : Status
  field  : FieldId
  words  : List Record
  deriving DecidableEq, Repr

end Sys2Proof.Machine
end

