-- ==== Sys2Proof/Config.lean ====
section
/-! DEFINITION. What a build of IRSD fixes: the record of its OPEN parameters (spec/00_scope.md R5) and the record of
its timing constants (spec/93_implementation_defined.md I1). The constants' VALUES stand in
`Sys2Proof/Machine/Params.lean`. No rule of the spec leaves the result of a command open, so there is no free value. -/

namespace Sys2Proof

/-- The OPEN parameters of R5. A machine holds them as plain data and never changes them, so every statement about a
state holds for every build (log 1). Their ranges are `Params.wf` of `WellFormed.lean`. -/
structure Params where
  /-- `MAX_PULSES`: capacity of the frame buffer, in pulses. -/
  maxPulses : Nat
  /-- `OUT_DEPTH`: depth of the result FIFO, in words. -/
  outDepth  : Nat
  /-- `BLOCK_ID`: what register ID reads (R31). -/
  blockId   : RegValue
  deriving DecidableEq, Repr

/-- The timing constants, in the order of registers 0x10 to 0x1E (spec/10_state.md R30), in microseconds. -/
structure Timing where
  gapThreshold : Nat
  leaderTol    : Nat
  aehaLdrMark  : Nat
  aehaLdrSpace : Nat
  necLdrMark   : Nat
  necLdrSpace  : Nat
  necrLdrMark  : Nat
  necrLdrSpace : Nat
  sircLdrMark  : Nat
  sircLdrSpace : Nat
  sircHiMark   : Nat
  sircHiTol    : Nat
  aehaT        : Nat
  necT         : Nat
  sircT        : Nat
  deriving DecidableEq, Repr

end Sys2Proof
end

