-- ==== Sys2Proof/Machine/Params.lean ====
section
/-! DEFINITION. The values of the timing constants (spec/40_segmenter.md R100, spec/41_demodulator.md R130, R131) and the
parameters of the build that `State.reset` describes. -/

namespace Sys2Proof.Machine

/-- The constants of registers 0x10 to 0x1E (spec/10_state.md R30). The source's literals are unaudited, and the spec
takes them as normative (spec/93_implementation_defined.md I1): this is the one place that holds them. -/
def timing : Timing :=
  { gapThreshold := 8000
    leaderTol    := 300
    aehaLdrMark  := 3520
    aehaLdrSpace := 1760
    necLdrMark   := 8992
    necLdrSpace  := 4496
    necrLdrMark  := 8992
    necrLdrSpace := 2248
    sircLdrMark  := 2400
    sircLdrSpace := 600
    sircHiMark   := 1200
    sircHiTol    := 100
    aehaT        := 440
    necT         := 562
    sircT        := 600 }

/-- SPEC_REV, CAPS[23:16] (spec/10_state.md R32): revision 1 of the spec (spec/00_scope.md R2). -/
def specRev : BitVec 8 := 0x01

/-- DESIGN CHOICE (log 2, unsafe): the parameters of the build that `State.reset` describes. The spec leaves all three
OPEN (spec/00_scope.md R5). 1024 is the value R5 suggests and spec/95_test_vectors.md uses; 0 is the BLOCK_ID of its
examples; 16 is the model's own. No statement rests on them. -/
def buildParams : Params := { maxPulses := 1024, outDepth := 16, blockId := 0 }

end Sys2Proof.Machine
end

