-- ==== Sys2Proof/Machine/State.lean ====
section
/-! DEFINITION. IRSD's state (spec/10_state.md R22) as plain data, its reset value (spec/70_reset_and_hazards.md R260),
and the reasons a step can stop. -/

namespace Sys2Proof.Machine

/-- What the host does at one of the block's three interfaces (spec/70_reset_and_hazards.md R270). The events of a
script happen in its order (log 3). -/
inductive HostEvent where
  /-- The host offers a command word and holds it stable until IRSD takes it. -/
  | command (w : Word72)
  /-- The host takes the word the result channel offers. -/
  | take
  /-- The host resets the block (R260). -/
  | reset
  /-- The host does nothing while IRSD goes on by one move. -/
  | wait
  deriving DecidableEq, Repr

/-- Why a step stops with a fault. -/
inductive Fault where
  /-- A read of frame buffer entry `index`, which holds no value. Raised by `closeFrame` through `fbufRead`. Safe: the
  spec gives such an entry no value and asks a model for a fault (spec/10_state.md R24,
  spec/93_implementation_defined.md I8), and no reachable state reads one. -/
  | fbufNoValue (index : Nat)
  deriving DecidableEq, Repr

/-- Why a step is refused. -/
inductive Refusal where
  /-- An instruction whose arm of `exec` gives no meaning. Raised by `exec` alone. Safe: nothing is claimed of it. No arm
  of this model raises it. -/
  | notModelled (mnemonic : String)
  deriving DecidableEq, Repr

/-- The state: the ten elements of R22, the build's parameters, and the model's own view of the host. -/
structure State where
  /-- `strm_active`: a PULSE has been accepted since the last reset, CLEAR or END. -/
  strmActive : Bool
  /-- `cur_pulses`: pulses in the open frame, saturating; 0 means no frame is open. -/
  curPulses  : BitVec 32
  /-- `fbuf`: the entries that hold a value, entry 0 first (R24, log 5). -/
  fbuf       : List Pulse
  /-- `strm_frames`: frames closed in the current stream, mod 2^32. -/
  strmFrames : BitVec 32
  /-- `tot_frames`: frames closed since reset or CLEAR, mod 2^32. -/
  totFrames  : BitVec 32
  /-- `tot_pulses`: PULSE commands accepted since reset or CLEAR, mod 2^32. -/
  totPulses  : BitVec 32
  /-- `ill_seen`: sticky, set by every rejected command (R25). -/
  illSeen    : Bool
  /-- `ovf_seen`: sticky, set by every frame closed with more than MAX_PULSES pulses (R25). -/
  ovfSeen    : Bool
  /-- `pending`: result words not yet moved into `outq`, oldest first. -/
  pending    : List Word72
  /-- `outq`: result words waiting for the host, head first. -/
  outq       : List Word72
  /-- The build's parameters (spec/00_scope.md R5, log 1): no step changes them. -/
  params     : Params
  /-- MODEL'S OWN (log 3): what the host does next, in order. -/
  script     : List HostEvent
  /-- MODEL'S OWN (log 3): the words the host has taken, oldest first: the observation of the run
  (spec/70_reset_and_hazards.md R274). -/
  taken      : List Word72
  deriving DecidableEq, Repr

/-- The state right after reset of a build with parameters `p` (R22, R260), with a host that has done nothing. -/
def State.resetOf (p : Params) : State :=
  { strmActive := false
    curPulses  := 0
    fbuf       := []
    strmFrames := 0
    totFrames  := 0
    totPulses  := 0
    illSeen    := false
    ovfSeen    := false
    pending    := []
    outq       := []
    params     := p
    script     := []
    taken      := [] }

/-- The machine right after reset, for the build of `buildParams` (log 2). -/
def State.reset : State := State.resetOf buildParams

end Sys2Proof.Machine
end

