-- ==== Sys2Proof/Machine/Flags.lean ====
section
/-! DEFINITION. The counters' arithmetic (spec/10_state.md R34), the sticky flags (R25) and the registers computed from
the state (R30 to R33). -/

namespace Sys2Proof.Machine

/-- `sat_32(c + 1)`: the count of a saturating 32-bit counter (R34, spec/40_segmenter.md R101). -/
def satIncr (c : BitVec 32) : BitVec 32 := BitVec.ofNat 32 (satN 32 (c.toNat + 1))

/-- `(c + 1) mod 2^32`: the count of a wrapping 32-bit counter (R34). -/
def wrapIncr (c : BitVec 32) : BitVec 32 := BitVec.ofNat 32 (c.toNat + 1)

/-- Set `ill_seen`, which stays set until CLEAR or reset (R25). -/
def setIllSeen (s : State) : State := { s with illSeen := true }

/-- Set `ovf_seen`, which stays set until CLEAR or reset (R25). -/
def setOvfSeen (s : State) : State := { s with ovfSeen := true }

/-- FRAME_OPEN, STATUS[1] (R33). -/
def frameOpen (s : State) : Bool := decide (s.curPulses ≠ 0)

/-- FRAME_OVERFLOWING, STATUS[4] (R33): the open frame has already lost pulses. -/
def frameOverflowing (s : State) : Bool := decide (s.params.maxPulses < s.curPulses.toNat)

/-- STATUS (R33), from bit 31 down to bit 0. -/
def statusReg (s : State) : RegValue :=
  (0 : BitVec 27) ++ BitVec.ofBool (frameOverflowing s) ++ BitVec.ofBool s.ovfSeen ++ BitVec.ofBool s.illSeen ++
    BitVec.ofBool (frameOpen s) ++ BitVec.ofBool s.strmActive

/-- CAPS (R32), from bit 31 down to bit 0. -/
def capsReg (s : State) : RegValue := (0 : BitVec 8) ++ specRev ++ BitVec.ofNat 16 s.params.maxPulses

/-- The register table of R30: each implemented address with what it reads. -/
def regTable (s : State) : List (RegAddr × RegValue) :=
  [ (0x00, s.params.blockId),
    (0x01, capsReg s),
    (0x02, statusReg s),
    (0x03, s.curPulses),
    (0x04, s.strmFrames),
    (0x05, s.totFrames),
    (0x06, s.totPulses),
    (0x10, BitVec.ofNat 32 timing.gapThreshold),
    (0x11, BitVec.ofNat 32 timing.leaderTol),
    (0x12, BitVec.ofNat 32 timing.aehaLdrMark),
    (0x13, BitVec.ofNat 32 timing.aehaLdrSpace),
    (0x14, BitVec.ofNat 32 timing.necLdrMark),
    (0x15, BitVec.ofNat 32 timing.necLdrSpace),
    (0x16, BitVec.ofNat 32 timing.necrLdrMark),
    (0x17, BitVec.ofNat 32 timing.necrLdrSpace),
    (0x18, BitVec.ofNat 32 timing.sircLdrMark),
    (0x19, BitVec.ofNat 32 timing.sircLdrSpace),
    (0x1A, BitVec.ofNat 32 timing.sircHiMark),
    (0x1B, BitVec.ofNat 32 timing.sircHiTol),
    (0x1C, BitVec.ofNat 32 timing.aehaT),
    (0x1D, BitVec.ofNat 32 timing.necT),
    (0x1E, BitVec.ofNat 32 timing.sircT) ]

/-- `reg(a)`: the value of the register at `a`, or none where the address is unimplemented (R30). -/
def reg (s : State) (a : RegAddr) : Option RegValue := (regTable s).lookup a

end Sys2Proof.Machine
end

