-- ==== Sys2Proof/Machine/Ops.lean ====
section
/-! DEFINITION. The named operations the commands share: emitting result words, rejecting a command, the frame buffer,
the result FIFO, and the reset event. IRSD takes no exception and returns from none (spec/60_exceptions.md R230, R236,
R237); `reject` is what every command error comes to. -/

namespace Sys2Proof.Machine

/-- The outcome of a step of this machine. -/
abbrev Result := Host.Outcome State Fault Refusal

/-- Run `f` on the next state; a fault or a refusal stays as it is. -/
def andThen (o : Result) (f : State → Result) : Result :=
  match o with
  | .next s => f s
  | .fault r => .fault r
  | .refused r => .refused r

/-- `emit` for each record in turn (spec/00_scope.md R8): the words go to the tail of `pending` in call order
(spec/20_memory.md R55, R56). -/
def emit (rs : List Record) (s : State) : State := { s with pending := s.pending ++ rs.map Record.word }

/-- CMD_ERROR.ADDR: the address for BAD_REG_ADDR, otherwise 0 (spec/43_control.md R205, spec/30_encoding.md R91). -/
def errorAddr (kind : CmdErrorKind) (addr : RegAddr) : RegAddr :=
  match kind with
  | .illegalOpcode => 0
  | .reservedNonzero => 0
  | .badRegAddr => addr

/-- `reject(kind)` (R205): set `ill_seen`, emit one CMD_ERROR word, change nothing else. -/
def reject (opcode : BitVec 8) (kind : CmdErrorKind) (addr : RegAddr) (s : State) : Result :=
  .next (emit [.cmdError opcode kind (errorAddr kind addr)] (setIllSeen s))

/-- A command word the decoder refuses is rejected with the opcode it carries (R205, R206). -/
def rejectWord (w : Word72) (kind : CmdErrorKind) (s : State) : Result := reject (opField w) kind (addrField w) s

/-- `fbuf[i]`: an entry at or past `min(cur_pulses, MAX_PULSES)` holds no value (spec/10_state.md R24). -/
def fbufRead (s : State) (i : Nat) : Option Pulse :=
  if i < min s.curPulses.toNat s.params.maxPulses then s.fbuf[i]? else none

/-- `fbuf[i] <- p`. Every entry below `i` holds a value when PULSE writes entry `i`; were one missing, the write would be
lost and a later read would fault (log 5). -/
def fbufWrite (buf : List Pulse) (i : Nat) (p : Pulse) : List Pulse :=
  if i ≤ buf.length then buf.take i ++ [p] else buf

/-- Entries `i, i+1, ...` of the frame buffer, `count` of them, or the fault of the first that holds no value. -/
def fbufReadFrom (s : State) (i : Nat) : Nat → Except Fault (List Pulse)
  | 0 => .ok []
  | count + 1 =>
    match fbufRead s i with
    | none => .error (.fbufNoValue i)
    | some p =>
      match fbufReadFrom s (i + 1) count with
      | .ok ps => .ok (p :: ps)
      | .error e => .error e

/-- The first part of PULSE (spec/40_segmenter.md R101, R103, R106): store the pulse if there is room, count it, and the
stream is active. -/
def acceptPulse (p : Pulse) (s : State) : State :=
  { s with
    fbuf := if s.curPulses.toNat < s.params.maxPulses then fbufWrite s.fbuf s.curPulses.toNat p else s.fbuf
    curPulses := satIncr s.curPulses
    strmActive := true
    totPulses := wrapIncr s.totPulses }

/-- The last part of `close_frame` (spec/42_frame_decoder.md R180): count the frame; no entry of the buffer holds a value
any more (spec/10_state.md R24). -/
def countFrame (s : State) : State :=
  { s with
    strmFrames := wrapIncr s.strmFrames
    totFrames := wrapIncr s.totFrames
    curPulses := 0
    fbuf := [] }

/-- The last part of END (spec/40_segmenter.md R104). -/
def finishStream (s : State) : State := { s with strmActive := false, strmFrames := 0 }

/-- What CLEAR sets (spec/43_control.md R202): every element but `pending` and `outq`. -/
def clearStream (s : State) : State :=
  { s with
    strmActive := false
    curPulses := 0
    fbuf := []
    strmFrames := 0
    totFrames := 0
    totPulses := 0
    illSeen := false
    ovfSeen := false }

/-- The reset event (spec/70_reset_and_hazards.md R260): every element to its reset value. The build and the host's own
record of the words it has taken are not the block's state (log 7). -/
def resetBlock (s : State) : State :=
  { State.resetOf s.params with script := s.script, taken := s.taken }

/-- Whether the command interface is ready (R270): nothing waits in `pending`. -/
def ready (s : State) : Bool := s.pending.isEmpty

/-- Move one word from the head of `pending` to the tail of `outq`, if there is a word and there is room; otherwise hold
(spec/20_memory.md R56). -/
def moveWord (s : State) : State :=
  match s.pending with
  | [] => s
  | w :: ws => if s.outq.length < s.params.outDepth then { s with pending := ws, outq := s.outq ++ [w] } else s

end Sys2Proof.Machine
end

