-- ==== Sys2Proof/Machine/Control.lean ====
section
/-! DEFINITION. The control commands, NOP, CLEAR and READ_REG (spec/43_control.md). -/

namespace Sys2Proof.Machine

/-- NOP (R200): no effect, no word. -/
def execNop (s : State) : Result := .next s

/-- CLEAR (R202): every element but `pending` and `outq` to its reset value; no word. -/
def execClear (s : State) : Result := .next (clearStream s)

/-- READ_REG (R203): emit the register's value, or be rejected with BAD_REG_ADDR where the address is unimplemented. -/
def execReadReg (addr : RegAddr) (s : State) : Result :=
  match reg s addr with
  | some value => .next (emit [.regValue addr value] s)
  | none => reject (Instr.opcode (.readReg addr)) .badRegAddr addr s

end Sys2Proof.Machine
end

