-- ==== Sys2Proof/Machine/Classifier.lean ====
section
/-! DEFINITION. The protocol classifier and the line-code demapper (spec/41_demodulator.md): pure functions of a frame's
pulses and the hardwired constants. -/

namespace Sys2Proof.Machine

/-- `in_win(x, c, t)`: the closed window, compared as naturals; no constant of the spec takes `c - t` below 0 (R132). -/
def inWin (x c t : Nat) : Bool := decide (c - t ≤ x) && decide (x ≤ c + t)

/-- Whether a leader lies in the template window around a mark and a space, each within LEADER_TOL (R130, R132). -/
def leaderIn (p : Pulse) (mark space : Nat) : Bool :=
  inWin p.mark.toNat mark timing.leaderTol && inWin p.space.toNat space timing.leaderTol

/-- `classify(leader)`, the templates tested in the order of R133. -/
def classify (p : Pulse) : Tag :=
  if leaderIn p timing.aehaLdrMark timing.aehaLdrSpace then .aeha
  else if leaderIn p timing.necLdrMark timing.necLdrSpace then .nec
  else if leaderIn p timing.necrLdrMark timing.necrLdrSpace then .necRepeat
  else if leaderIn p timing.sircLdrMark timing.sircLdrSpace then .sirc
  else .unknown

/-- A gap pulse: `space >= 8000`, unsigned and inclusive (spec/40_segmenter.md R100). -/
def isGap (p : Pulse) : Bool := decide (timing.gapThreshold ≤ p.space.toNat)

/-- Pulse-distance modulation: Hi when `s >= 2*m`, with `2*m` exact (R136). -/
def pdm (p : Pulse) : Bit := decide (2 * p.mark.toNat ≤ p.space.toNat)

/-- Pulse-width modulation: Hi when the mark lies in the closed window of the SIRC "one" mark; the space is not read
(R131, R137). -/
def pwm (p : Pulse) : Bit := inWin p.mark.toNat timing.sircHiMark timing.sircHiTol

/-- `demodulate(f)` for the frame `leader :: rest` (R138): one bit for each pulse but the leader; nothing for a NEC
repeat (R139); every pulse, the leader too, for an unknown frame (R135). -/
def demodulate (leader : Pulse) (rest : List Pulse) : DemodulatedFrame :=
  match classify leader with
  | .aeha => .aeha (rest.map pdm)
  | .nec => .nec (rest.map pdm)
  | .sirc => .sirc (rest.map pwm)
  | .necRepeat => .necRepeat
  | .unknown => .unknown (leader :: rest)

end Sys2Proof.Machine
end

