-- ==== Sys2Proof/Machine/FrameDecoder.lean ====
section
/-! DEFINITION. The bit-sequence parser (spec/42_frame_decoder.md section 1): AEHA, NEC and SIRC, total on every bit
sequence (R160). -/

namespace Sys2Proof.Machine

/-- The AEHA octets: `ceil(D/8)` of them over the `D = L - 1` data bits, the last one short where 8 does not divide `D`
and zero above its bits (R162). -/
def aehaOctetList (bits : List Bit) : List (BitVec 8) :=
  (List.range (ceilDiv (bits.length - 1) 8)).map fun j => foldField 8 bits (8 * j) (min 8 (bits.length - 1 - 8 * j))

/-- LAST_BITS: the number of bits in the last octet (R162). -/
def aehaLastBits (bits : List Bit) : Nat := (bits.length - 1) - 8 * (ceilDiv (bits.length - 1) 8 - 1)

/-- The AEHA_OCTETS words: eight octets a word, missing lanes 0 (R164, spec/30_encoding.md R86). -/
def aehaOctetWords (octets : List (BitVec 8)) : List Record :=
  (List.range (ceilDiv octets.length 8)).map fun w => .aehaOctets (BitVec.ofNat 64 (packOctets (slice octets (8 * w) 8)))

/-- `decode_aeha` (R161 to R164). -/
def decodeAeha (bits : List Bit) : Decoded :=
  if bits.length < 2 then ⟨.inputIsEmpty, .noField, []⟩
  else
    ⟨.ok, .noField,
      .aehaInfo (BitVec.ofNat 16 (aehaOctetList bits).length) (BitVec.ofNat 4 (aehaLastBits bits))
        (bits.getD (bits.length - 1) false) :: aehaOctetWords (aehaOctetList bits)⟩

/-- `decode_nec` (R165 to R168): the first field not wholly present is named; bits past 32 are not decoded. -/
def decodeNec (bits : List Bit) : Decoded :=
  if bits.length < 8 then ⟨.insufficientInputData, .custom0, []⟩
  else if bits.length < 16 then ⟨.insufficientInputData, .custom1, []⟩
  else if bits.length < 24 then ⟨.insufficientInputData, .data0, []⟩
  else if bits.length < 32 then ⟨.insufficientInputData, .data1, []⟩
  else if bits.length < 33 then ⟨.insufficientInputData, .stop, []⟩
  else
    ⟨.ok, .noField,
      [.necFields (foldField 8 bits 0 8) (foldField 8 bits 8 8) (foldField 8 bits 16 8) (foldField 8 bits 24 8)
        (bits.getD 32 false)]⟩

/-- `decode_sirc` (R170 to R172): the length alone picks the variant. -/
def decodeSirc (bits : List Bit) : Decoded :=
  if bits.length = 12 then
    ⟨.ok, .noField, [.sircFields (foldField 7 bits 0 7) (foldField 8 bits 7 5) 0 .sirc12]⟩
  else if bits.length = 15 then
    ⟨.ok, .noField, [.sircFields (foldField 7 bits 0 7) (foldField 8 bits 7 8) 0 .sirc15]⟩
  else if bits.length = 20 then
    ⟨.ok, .noField, [.sircFields (foldField 7 bits 0 7) (foldField 8 bits 7 5) (foldField 8 bits 12 8) .sirc20]⟩
  else ⟨.unknownProtocol, .noField, []⟩

end Sys2Proof.Machine
end

