-- ==== Sys2Proof/Machine/FrameClose.lean ====
section
/-! DEFINITION. Frame close and the frame record (spec/42_frame_decoder.md section 2): the operation PULSE and END
share. -/

namespace Sys2Proof.Machine

/-- PULSE_COUNT: `sat_16(n)` (spec/30_encoding.md R82). -/
def pulseCount (n : Nat) : BitVec 16 := BitVec.ofNat 16 (satN 16 n)

/-- `emit_bits`: `ceil(L/64)` BITS words, bit `i` at position `i mod 64` of word `i/64`, 0 past the end (R182). -/
def bitsWords (bits : List Bit) : List Record :=
  (List.range (ceilDiv bits.length 64)).map fun w => .bits (foldField 64 bits (64 * w) 64)

/-- The record of an AEHA, NEC or SIRC frame of `n` pulses: the header with BIT_COUNT = n - 1, the BITS words whatever
the decode status, then the decoded words (R175, R180, R182 to R186). -/
def codedRecord (k : BitVec 16) (tag : Tag) (n : Nat) (bits : List Bit) (d : Decoded) : List Record :=
  .frameHdr k tag d.status d.field (pulseCount n) (BitVec.ofNat 16 (n - 1)) :: (bitsWords bits ++ d.words)

/-- The record of a frame `leader :: rest` of at most MAX_PULSES pulses, at index `k` (R180, R173, R174, R183). -/
def fittingRecord (k : BitVec 16) (leader : Pulse) (rest : List Pulse) : List Record :=
  match demodulate leader rest with
  | .unknown raw =>
    .frameHdr k .unknown .unknownProtocol .noField (pulseCount (rest.length + 1)) 0 :: raw.map .rawPulse
  | .necRepeat => [.frameHdr k .necRepeat .ok .noField (pulseCount (rest.length + 1)) 0]
  | .aeha bits => codedRecord k .aeha (rest.length + 1) bits (decodeAeha bits)
  | .nec bits => codedRecord k .nec (rest.length + 1) bits (decodeNec bits)
  | .sirc bits => codedRecord k .sirc (rest.length + 1) bits (decodeSirc bits)

/-- The record of a frame of `n > MAX_PULSES` pulses: the header alone, with the tag its leader gives (R181). -/
def overflowRecord (k : BitVec 16) (leader : Pulse) (n : Nat) : List Record :=
  [.frameHdr k (classify leader) .frameOverflow .noField (pulseCount n) 0]

/-- FRAME_IDX: `strm_frames mod 2^16` before the close increments it (R180). -/
def frameIdx (s : State) : BitVec 16 := s.strmFrames.setWidth 16

/-- `close_frame()` (R180): emit the frame record and count the frame. A frame past the capacity sets `ovf_seen` (R181).
A read of a valueless entry faults (spec/10_state.md R24). -/
def closeFrame (s : State) : Result :=
  match fbufRead s 0 with
  | none => .fault (.fbufNoValue 0)
  | some leader =>
    if s.params.maxPulses < s.curPulses.toNat then
      .next (countFrame (emit (overflowRecord (frameIdx s) leader s.curPulses.toNat) (setOvfSeen s)))
    else
      match fbufReadFrom s 1 (s.curPulses.toNat - 1) with
      | .error e => .fault e
      | .ok rest => .next (countFrame (emit (fittingRecord (frameIdx s) leader rest) s))

/-- Close the open frame if there is one (spec/40_segmenter.md R104). -/
def closeOpenFrame (s : State) : Result := if s.curPulses = 0 then .next s else closeFrame s

end Sys2Proof.Machine
end

