-- ==== Sys2Proof/Machine/Segmenter.lean ====
section
/-! DEFINITION. The frame segmenter's commands, PULSE and END (spec/40_segmenter.md). -/

namespace Sys2Proof.Machine

/-- PULSE (R101): append one pulse to the open frame, and close the frame if it is a gap pulse (R102). -/
def execPulse (mark space : Duration) (s : State) : Result :=
  if isGap ⟨mark, space⟩ then closeFrame (acceptPulse ⟨mark, space⟩ s) else .next (acceptPulse ⟨mark, space⟩ s)

/-- END (R104): an empty stream reports INPUT_IS_EMPTY (R105); otherwise close the open frame if there is one, then
report the stream's frame count. -/
def execEnd (s : State) : Result :=
  if s.strmActive then
    andThen (closeOpenFrame s) fun t => .next (finishStream (emit [.streamEnd t.strmFrames .ok] t))
  else .next (finishStream (emit [.streamEnd 0 .inputIsEmpty] s))

end Sys2Proof.Machine
end

