-- ==== Sys2Proof/Machine/Dispatch.lean ====
section
/-! DEFINITION. What each command does: one arm per constructor of `Instr`. -/

namespace Sys2Proof.Machine

def exec (i : Instr) (s : State) : Host.Outcome State Fault Refusal :=
  match i with
  | .nop => Sys2Proof.Machine.execNop s
  | .pulse mark space => Sys2Proof.Machine.execPulse mark space s
  | .endStream => Sys2Proof.Machine.execEnd s
  | .clear => Sys2Proof.Machine.execClear s
  | .readReg addr => Sys2Proof.Machine.execReadReg addr s

end Sys2Proof.Machine
end

