-- ==== Sys2Proof/Machine/Step.lean ====
section
/-! DEFINITION. One step of the block and its host (spec/20_memory.md R55, R56, spec/70_reset_and_hazards.md R270 to
R272): the host's next event happens, or the block moves a word so that it can. -/

namespace Sys2Proof.Machine

/-- Run one command word: the command it decodes to, or its rejection (spec/43_control.md R206). -/
def runCommand (w : Word72) (s : State) : Result :=
  match decode w with
  | .ok i => exec i s
  | .error kind => rejectWord w kind s

/-- One step. A command word is taken when IRSD is ready; until then the host holds it, and the step moves a word if
there is room, or holds (R56, R272). A take removes the head of `outq`; with `outq` empty it waits for a word on its
way, and with nothing on its way there is nothing to take (log 4). With no event left, IRSD moves what is pending and
is then idle, keeping all state (spec/60_exceptions.md R244). -/
def step (s : State) : Host.Outcome State Fault Refusal :=
  match s.script with
  | [] => .next (moveWord s)
  | .wait :: rest => .next (moveWord { s with script := rest })
  | .reset :: rest => .next (resetBlock { s with script := rest })
  | .take :: rest =>
    match s.outq with
    | w :: ws => .next { s with outq := ws, taken := s.taken ++ [w], script := rest }
    | [] => if ready s then .next { s with script := rest } else .next (moveWord s)
  | .command w :: rest => if ready s then runCommand w { s with script := rest } else .next (moveWord s)

/-- The state whose very next step runs the command word of `tableWord nbits w`: the host offers it, and nothing pending
keeps IRSD from taking it (log 6). -/
def State.withFetchWord (s : State) (nbits w : Nat) : State :=
  { s with pending := [], script := .command (tableWord nbits w) :: s.script }

end Sys2Proof.Machine
end

