-- ==== Sys2Proof/WellFormed.lean ====
section
/-! DEFINITION. The checks on data whose type does not bound it: the ranges of the build's parameters (spec/00_scope.md
R5) and the operands of command text (spec/30_encoding.md R74). `Instr` needs no check: its operands have their fields'
widths and every value is legal (R72). -/

namespace Sys2Proof

/-- The ranges of R5: `2 <= MAX_PULSES <= 65535` and `OUT_DEPTH >= 1`. -/
abbrev Params.wf (p : Params) : Prop :=
  2 ≤ p.maxPulses ∧ p.maxPulses ≤ 65535 ∧ 1 ≤ p.outDepth

/-- An assembler refuses an operand that does not fit its field: a mark or space above 0xFFFF_FFFF, or a READ_REG
address above 0xFF (R74). A raw word has 72 bits. -/
def Source.wf : Source → Bool
  | .nop => true
  | .pulse mark space => decide (mark < 2 ^ 32) && decide (space < 2 ^ 32)
  | .endStream => true
  | .clear => true
  | .readReg addr => decide (addr < 2 ^ 8)
  | .raw word => decide (word < 2 ^ 72)
  | .pseudo _ => true

end Sys2Proof
end

