-- ==== Sys2Proof/Machine/Assembler.lean ====
section
/-! DEFINITION. Command text (spec/30_encoding.md R74, R75): the pseudo-instructions, and an assembler from text to
command words. White space, case, blank lines and digit grouping are the model's choice (log 10). -/

namespace Sys2Proof.Machine

/-- Why the assembler refuses a line. -/
inductive AsmError where
  | unknownMnemonic
  | operandCount
  | badNumber
  | badRawWord
  /-- An operand that does not fit its field (R74). -/
  | operandTooWide
  deriving DecidableEq, Repr

/-- The pulse of a data-bit pseudo-instruction (R75). -/
def bitPulse : BitPseudo → Pulse
  | .aeha0 => ⟨440, 440⟩
  | .aeha1 => ⟨440, 1320⟩
  | .nec0 => ⟨562, 562⟩
  | .nec1 => ⟨562, 1686⟩
  | .sirc0 => ⟨600, 600⟩
  | .sirc1 => ⟨1200, 600⟩

/-- The one pulse each pseudo-instruction expands to; the `.G` form has the same mark and space 8000 (R75). -/
def pseudoPulse : Pseudo → Pulse
  | .ldrAeha => ⟨3520, 1760⟩
  | .ldrNec => ⟨8992, 4496⟩
  | .ldrNecr => ⟨8992, 2248⟩
  | .ldrSirc => ⟨2400, 600⟩
  | .dataBit b gap => if gap then ⟨(bitPulse b).mark, 8000⟩ else bitPulse b

/-- The command word of one parsed line, refused where an operand does not fit its field (R74). -/
def assembleSource (src : Source) : Except AsmError Word72 :=
  if src.wf then
    match src with
    | .nop => .ok (encode .nop)
    | .pulse mark space => .ok (encode (.pulse (BitVec.ofNat 32 mark) (BitVec.ofNat 32 space)))
    | .endStream => .ok (encode .endStream)
    | .clear => .ok (encode .clear)
    | .readReg addr => .ok (encode (.readReg (BitVec.ofNat 8 addr)))
    | .raw word => .ok (BitVec.ofNat 72 word)
    | .pseudo p => .ok (encode (.pulse (pseudoPulse p).mark (pseudoPulse p).space))
  else .error .operandTooWide

/-- White space inside a line (log 10). -/
def isBlank (c : Char) : Bool := c == ' ' || c == '\t' || c == '\r'

/-- A text without the white space around it. -/
def trim (cs : List Char) : List Char := ((cs.dropWhile isBlank).reverse.dropWhile isBlank).reverse

/-- The parts of a text between its separators. -/
def splitAtChar (sep : Char) : List Char → List (List Char)
  | [] => [[]]
  | c :: cs =>
    if c == sep then [] :: splitAtChar sep cs
    else
      match splitAtChar sep cs with
      | [] => [[c]]
      | part :: parts => (c :: part) :: parts

/-- The digits, with their values; a hex letter in either case (log 10). -/
def digits : List (Char × Nat) :=
  [('0', 0), ('1', 1), ('2', 2), ('3', 3), ('4', 4), ('5', 5), ('6', 6), ('7', 7), ('8', 8), ('9', 9),
   ('A', 10), ('B', 11), ('C', 12), ('D', 13), ('E', 14), ('F', 15),
   ('a', 10), ('b', 11), ('c', 12), ('d', 13), ('e', 14), ('f', 15)]

/-- The value of a digit in a base, or none. -/
def digitValue (base : Nat) (c : Char) : Option Nat := (digits.lookup c).filter (· < base)

/-- The value of the digits that follow a value already read; an underscore between two digits only groups
(spec/00_scope.md R6, log 10). `afterDigit` says whether the character before was a digit. -/
def readDigits (base : Nat) (value : Nat) (afterDigit : Bool) : List Char → Option Nat
  | [] => if afterDigit then some value else none
  | '_' :: cs => if afterDigit then readDigits base value false cs else none
  | c :: cs =>
    match digitValue base c with
    | some d => readDigits base (base * value + d) true cs
    | none => none

/-- An unsigned number, decimal or `0x` hex (R74). -/
def readNumber : List Char → Option Nat
  | '0' :: 'x' :: cs => readDigits 16 0 false cs
  | cs => readDigits 10 0 false cs

/-- A hex number of exactly `n` digits. -/
def readHex (n : Nat) (cs : List Char) : Option Nat :=
  if cs.length = n ∧ !cs.contains '_' then readDigits 16 0 false cs else none

/-- The raw word of `.cmd`: `TT_AAAAAAAA_BBBBBBBB` (R74, spec/00_scope.md R6). -/
def readRawWord (cs : List Char) : Option Nat :=
  match splitAtChar '_' cs with
  | [t, a, b] => do
    let t ← readHex 2 t
    let a ← readHex 8 a
    let b ← readHex 8 b
    some (2 ^ 64 * t + 2 ^ 32 * a + b)
  | _ => none

/-- The pseudo-instructions by name (R75). -/
def pseudoNames : List (List Char × Pseudo) :=
  [("LDR_AEHA".toList, .ldrAeha), ("LDR_NEC".toList, .ldrNec), ("LDR_NECR".toList, .ldrNecr),
   ("LDR_SIRC".toList, .ldrSirc),
   ("AEHA0".toList, .dataBit .aeha0 false), ("AEHA1".toList, .dataBit .aeha1 false),
   ("NEC0".toList, .dataBit .nec0 false), ("NEC1".toList, .dataBit .nec1 false),
   ("SIRC0".toList, .dataBit .sirc0 false), ("SIRC1".toList, .dataBit .sirc1 false),
   ("AEHA0.G".toList, .dataBit .aeha0 true), ("AEHA1.G".toList, .dataBit .aeha1 true),
   ("NEC0.G".toList, .dataBit .nec0 true), ("NEC1.G".toList, .dataBit .nec1 true),
   ("SIRC0.G".toList, .dataBit .sirc0 true), ("SIRC1.G".toList, .dataBit .sirc1 true)]

/-- A line's operands: none where the text after the mnemonic is blank, else its parts between commas (R74). -/
def operandTexts (cs : List Char) : List (List Char) :=
  if trim cs = [] then [] else (splitAtChar ',' cs).map trim

/-- A line of a mnemonic with its operands (R74, R75). -/
def parseCommand (mnemonic : List Char) (operands : List (List Char)) : Except AsmError Source :=
  if mnemonic = "NOP".toList then if operands = [] then .ok .nop else .error .operandCount
  else if mnemonic = "END".toList then if operands = [] then .ok .endStream else .error .operandCount
  else if mnemonic = "CLEAR".toList then if operands = [] then .ok .clear else .error .operandCount
  else if mnemonic = "PULSE".toList then
    match operands with
    | [mark, space] =>
      match readNumber mark, readNumber space with
      | some m, some s => .ok (.pulse m s)
      | _, _ => .error .badNumber
    | _ => .error .operandCount
  else if mnemonic = "READ_REG".toList then
    match operands with
    | [addr] =>
      match readNumber addr with
      | some a => .ok (.readReg a)
      | none => .error .badNumber
    | _ => .error .operandCount
  else if mnemonic = ".cmd".toList then
    match operands with
    | [word] =>
      match readRawWord word with
      | some w => .ok (.raw w)
      | none => .error .badRawWord
    | _ => .error .operandCount
  else
    match pseudoNames.lookup mnemonic with
    | some p => if operands = [] then .ok (.pseudo p) else .error .operandCount
    | none => .error .unknownMnemonic

/-- One line of text: its comment is dropped, and a blank line holds no command (R74). -/
def parseLine (cs : List Char) : Except AsmError (Option Source) :=
  let body := trim (cs.takeWhile (· != ';'))
  if body = [] then .ok none
  else
    match parseCommand (body.takeWhile (!isBlank ·)) (operandTexts (body.dropWhile (!isBlank ·))) with
    | .ok src => .ok (some src)
    | .error e => .error e

/-- The command words of lines of text, or the number (from `n` on) and the reason of the first line refused. -/
def assembleLines (n : Nat) : List (List Char) → Except (Nat × AsmError) (List Word72)
  | [] => .ok []
  | line :: lines =>
    match parseLine line with
    | .error e => .error (n, e)
    | .ok none => assembleLines (n + 1) lines
    | .ok (some src) =>
      match assembleSource src with
      | .error e => .error (n, e)
      | .ok w =>
        match assembleLines (n + 1) lines with
        | .ok ws => .ok (w :: ws)
        | .error e => .error e

/-- Assemble a text, one command a line, lines numbered from 1 (R74). -/
def assemble (text : List Char) : Except (Nat × AsmError) (List Word72) := assembleLines 1 (splitAtChar '\n' text)

end Sys2Proof.Machine
end

