-- ==== Sys2Proof/Machine/Batch.lean ====
section
/-! DEFINITION. The source's batch functions that the stream is held against (spec/40_segmenter.md R110, R111): the batch
segmenter, the frame record of a whole frame, and the words a whole stream emits. -/

namespace Sys2Proof.Machine

/-- The loop of `segment(P)` (R110), with `cur` the pulses since the last cut. -/
def segmentFrom (cur : List Pulse) : List Pulse → List (List Pulse)
  | [] => if cur = [] then [] else [cur]
  | p :: ps => if isGap p then (cur ++ [p]) :: segmentFrom [] ps else segmentFrom (cur ++ [p]) ps

/-- `segment(P)` (R110); `none` is InputIsEmpty. -/
def segmentPulses (ps : List Pulse) : Option (List (List Pulse)) := if ps = [] then none else some (segmentFrom [] ps)

/-- `frame_record(k, f)` (spec/42_frame_decoder.md R180) in a block of capacity `maxPulses`. A frame is not empty. -/
def frameRecord (maxPulses : Nat) (k : BitVec 16) (f : List Pulse) : List Record :=
  match f with
  | [] => []
  | leader :: rest =>
    if maxPulses < f.length then overflowRecord k leader f.length else fittingRecord k leader rest

/-- The records of frames numbered from `k` on. -/
def frameRecordsFrom (maxPulses k : Nat) : List (List Pulse) → List Record
  | [] => []
  | f :: fs => frameRecord maxPulses (BitVec.ofNat 16 k) f ++ frameRecordsFrom maxPulses (k + 1) fs

/-- The frame records and STREAM_END that a stream of pulses ended by END emits (R110). -/
def streamRecords (maxPulses : Nat) (ps : List Pulse) : List Record :=
  match segmentPulses ps with
  | none => [.streamEnd 0 .inputIsEmpty]
  | some fs => frameRecordsFrom maxPulses 0 fs ++ [.streamEnd (BitVec.ofNat 32 fs.length) .ok]

/-- Run command words one after another, each on the state the one before left (spec/20_memory.md R55). -/
def runWords : List Word72 → State → Result
  | [], s => .next s
  | w :: ws, s => andThen (runCommand w s) (runWords ws)

/-- The command words of a host's script, in order. -/
def commandWords : List HostEvent → List Word72
  | [] => []
  | .command w :: es => w :: commandWords es
  | .take :: es => commandWords es
  | .reset :: es => commandWords es
  | .wait :: es => commandWords es

/-- The pulses that command words deliver, in order. -/
def pulsesOf : List Word72 → List Pulse
  | [] => []
  | w :: ws =>
    match decode w with
    | .ok (.pulse mark space) => ⟨mark, space⟩ :: pulsesOf ws
    | _ => pulsesOf ws

end Sys2Proof.Machine
end

