-- ==== Sys2Proof/Safety.lean ====
section
/-! DEFINITION. What a safe state and a safe run are, in the terms the statements use: the invariant (spec/10_state.md
R23, R24, spec/40_segmenter.md R106), the legal result words, the result stream, and a finished run. -/

namespace Sys2Proof.Machine

/-- The invariant of reachable states. -/
structure State.Inv (s : State) : Prop where
  /-- The build's parameters are in their ranges (spec/00_scope.md R5). -/
  params : s.params.wf
  /-- R23 (a), and no frame counted: a stream that has not begun has no open frame and FRAME_IDX starts at 0 (R106). -/
  idle : s.strmActive = false → s.curPulses = 0 ∧ s.strmFrames = 0
  /-- Exactly the entries below `min(cur_pulses, MAX_PULSES)` hold a value (R24). -/
  buffer : s.fbuf.length = min s.curPulses.toNat s.params.maxPulses
  /-- R23 (c). -/
  fifo : s.outq.length ≤ s.params.outDepth

/-- A step that stops with neither a fault nor a refusal. -/
def State.stepsOn (s : State) : Prop := ∃ t, step s = .next t

/-- The words of a run so far, in the order the commands emitted them: taken, then waiting in `outq`, then pending
(spec/20_memory.md R55). -/
def State.resultStream (s : State) : List Word72 := s.taken ++ s.outq ++ s.pending

/-- Whether a word reads as a record: it has a listed TYPE, listed codes and no payload bit set that its layout does not
name, so it is none of the words that spec/93_implementation_defined.md I12 says are never produced (log 14). -/
def legalWord (w : Word72) : Bool := (Record.ofWord w).isSome

/-- Every word of the run passes the checks of `legalWord`. -/
abbrev State.wordsLegal (s : State) : Prop := ∀ w ∈ s.resultStream, legalWord w = true

/-- A finished run (spec/70_reset_and_hazards.md R274): the host has delivered its last command, `pending` is empty, and
the host has taken every word from `outq`. Other events of the host may still follow. -/
abbrev State.finished (s : State) : Prop := commandWords s.script = [] ∧ s.pending = [] ∧ s.outq = []

/-- The state without what R24 calls valueless: the buffer's entries at or past `min(cur_pulses, MAX_PULSES)`. -/
def State.valued (s : State) : State := { s with fbuf := s.fbuf.take (min s.curPulses.toNat s.params.maxPulses) }

/-- Two states with the same elements of R22 but for the result words, in the same build. -/
structure SameCore (s t : State) : Prop where
  strmActive : s.strmActive = t.strmActive
  curPulses  : s.curPulses = t.curPulses
  fbuf       : s.fbuf = t.fbuf
  strmFrames : s.strmFrames = t.strmFrames
  totFrames  : s.totFrames = t.totFrames
  totPulses  : s.totPulses = t.totPulses
  illSeen    : s.illSeen = t.illSeen
  ovfSeen    : s.ovfSeen = t.ovfSeen
  params     : s.params = t.params

/-- What a rejected command leaves (spec/43_control.md R205): `ill_seen` set, one CMD_ERROR word emitted, and every other
element as it was. -/
def rejectedState (s : State) (opcode : BitVec 8) (kind : CmdErrorKind) (addr : RegAddr) : State :=
  { s with illSeen := true, pending := s.pending ++ [(Record.cmdError opcode kind addr).word] }

end Sys2Proof.Machine
end

