-- ==== Sys2Proof/Certificates/Slice0/Obligations.lean ====
section
/-! DEFINITION. The statements for the provers. Each docstring names the rules of spec/ it formalises. -/

open Sys2Proof Sys2Proof.Machine

/-! ## Encoding -/

/-- R70 to R72: a word decodes to a command exactly when it is that command's encoding, so decoding an encoded command
gives it back, operands and all, and each legal word has one meaning. -/
def Obligations.DecodeInvertsEncode : Prop :=
  ∀ (w : Word72) (i : Instr), decode w = .ok i ↔ w = encode i

/-- The introduction of spec/30_encoding.md: the words that decode to a command are those that match a row of
spec/opcode_table.json, and no two rows match one word. -/
def Obligations.DecodeAcceptsExactlyTheTableRows : Prop :=
  (∀ w : Word72, (∃ i, decode w = .ok i) ↔ ∃ r ∈ opcodeRows, r.fits w = true) ∧
    ∀ (w : Word72) (r q : OpcodeRow), r ∈ opcodeRows → q ∈ opcodeRows → r.fits w = true → q.fits w = true → r = q

/-- R71, R72: words written out from the encodings, one per command, with the instruction each stands for. -/
def Obligations.SampleWordsDecodeToTheirCommands : Prop :=
  decode 0x00_00000000_00000000 = .ok .nop ∧
    decode 0x01_00000232_00001F40 = .ok (.pulse 562 8000) ∧
    decode 0x02_00000000_00000000 = .ok .endStream ∧
    decode 0x03_00000000_00000000 = .ok .clear ∧
    decode 0x04_00000000_00000010 = .ok (.readReg 0x10)

/-- R80, R82, R84 to R91: where each field of each result word lies; and the number of each code: the tags, the decode
statuses and the missing fields of R92 to R94, the variants of R88, the stream statuses of R89 and the kinds of R91. -/
def Obligations.ResultWordFieldsLieAsLaidOut : Prop :=
  (∀ idx tag status field pc bc,
      let w := (Record.frameHdr idx tag status field pc bc).word
      w.extractLsb' 64 8 = 0x01 ∧ w.extractLsb' 48 16 = idx ∧ w.extractLsb' 44 4 = tag.code ∧
        w.extractLsb' 40 4 = status.code ∧ w.extractLsb' 36 4 = field.code ∧ w.extractLsb' 32 4 = 0#4 ∧
        w.extractLsb' 16 16 = pc ∧ w.extractLsb' 0 16 = bc) ∧
    (∀ p, let w := (Record.bits p).word
      w.extractLsb' 64 8 = 0x02 ∧ w.extractLsb' 0 64 = p) ∧
    (∀ p, let w := (Record.rawPulse p).word
      w.extractLsb' 64 8 = 0x03 ∧ w.extractLsb' 32 32 = p.mark ∧ w.extractLsb' 0 32 = p.space) ∧
    (∀ count last stop, let w := (Record.aehaInfo count last stop).word
      w.extractLsb' 64 8 = 0x04 ∧ w.extractLsb' 0 16 = count ∧ w.extractLsb' 16 4 = last ∧ w.extractLsb' 20 4 = 0#4 ∧
        w.getLsbD 24 = stop ∧ w.extractLsb' 25 39 = 0#39) ∧
    (∀ lanes, let w := (Record.aehaOctets lanes).word
      w.extractLsb' 64 8 = 0x05 ∧ w.extractLsb' 0 64 = lanes) ∧
    (∀ c0 c1 d0 d1 stop, let w := (Record.necFields c0 c1 d0 d1 stop).word
      w.extractLsb' 64 8 = 0x06 ∧ w.extractLsb' 0 8 = c0 ∧ w.extractLsb' 8 8 = c1 ∧ w.extractLsb' 16 8 = d0 ∧
        w.extractLsb' 24 8 = d1 ∧ w.getLsbD 32 = stop ∧ w.extractLsb' 33 31 = 0#31) ∧
    (∀ cmd addr ext variant, let w := (Record.sircFields cmd addr ext variant).word
      w.extractLsb' 64 8 = 0x07 ∧ w.extractLsb' 0 7 = cmd ∧ w.getLsbD 7 = false ∧ w.extractLsb' 8 8 = addr ∧
        w.extractLsb' 16 8 = ext ∧ w.extractLsb' 24 2 = variant.code ∧ w.extractLsb' 26 38 = 0#38) ∧
    (∀ frames status, let w := (Record.streamEnd frames status).word
      w.extractLsb' 64 8 = 0x08 ∧ w.extractLsb' 32 32 = frames ∧ w.extractLsb' 4 28 = 0#28 ∧
        w.extractLsb' 0 4 = status.code) ∧
    (∀ addr value, let w := (Record.regValue addr value).word
      w.extractLsb' 64 8 = 0x09 ∧ w.extractLsb' 0 32 = value ∧ w.extractLsb' 32 8 = addr ∧ w.extractLsb' 40 24 = 0#24) ∧
    (∀ op kind addr, let w := (Record.cmdError op kind addr).word
      w.extractLsb' 64 8 = 0x0A ∧ w.extractLsb' 0 8 = op ∧ w.extractLsb' 8 4 = kindCode kind ∧ w.extractLsb' 12 4 = 0#4 ∧
        w.extractLsb' 16 8 = addr ∧ w.extractLsb' 24 40 = 0#40) ∧
    (Tag.unknown.code = 0 ∧ Tag.aeha.code = 1 ∧ Tag.nec.code = 2 ∧ Tag.sirc.code = 3 ∧ Tag.necRepeat.code = 4) ∧
    (Status.ok.code = 0 ∧ Status.inputIsEmpty.code = 1 ∧ Status.unknownProtocol.code = 2 ∧
      Status.insufficientInputData.code = 3 ∧ Status.frameOverflow.code = 4) ∧
    (FieldId.noField.code = 0 ∧ FieldId.custom0.code = 1 ∧ FieldId.custom1.code = 2 ∧ FieldId.data0.code = 3 ∧
      FieldId.data1.code = 4 ∧ FieldId.stop.code = 5) ∧
    (SircVariant.sirc12.code = 0 ∧ SircVariant.sirc15.code = 1 ∧ SircVariant.sirc20.code = 2) ∧
    (StreamStatus.ok.code = 0 ∧ StreamStatus.inputIsEmpty.code = 1) ∧
    kindCode .illegalOpcode = 1 ∧ kindCode .reservedNonzero = 2 ∧ kindCode .badRegAddr = 3

/-- R80 to R94: the result-word decoder gives back every record, so no two records share a word. -/
def Obligations.ResultWordDecodesToItsRecord : Prop :=
  ∀ r : Record, Record.ofWord r.word = some r

/-! ## Reset and the state -/

/-- R260: reset puts every element to its reset value, and what the registers read then. -/
def Obligations.ResetPutsEveryElementToItsResetValue : Prop :=
  ∀ s : State,
    let t := resetBlock s
    t.strmActive = false ∧ t.curPulses = 0 ∧ t.strmFrames = 0 ∧ t.totFrames = 0 ∧ t.totPulses = 0 ∧
      t.illSeen = false ∧ t.ovfSeen = false ∧ t.pending = [] ∧ t.outq = [] ∧ (∀ i, fbufRead t i = none) ∧
      reg t 0x00 = some s.params.blockId ∧
      reg t 0x01 = some (0x00#8 ++ 0x01#8 ++ BitVec.ofNat 16 s.params.maxPulses) ∧
      (∀ a ∈ ([0x02, 0x03, 0x04, 0x05, 0x06] : List RegAddr), reg t a = some 0) ∧
      ∀ x ∈ ([(0x10, 8000), (0x11, 300), (0x12, 3520), (0x13, 1760), (0x14, 8992), (0x15, 4496), (0x16, 8992),
          (0x17, 2248), (0x18, 2400), (0x19, 600), (0x1A, 1200), (0x1B, 100), (0x1C, 440), (0x1D, 562),
          (0x1E, 600)] : List (RegAddr × RegValue)), reg t x.1 = some x.2

/-- A reset event drops every word the host has not taken; the words it has taken, the rest of its script and the build
stay. That last part is the model's choice (log 3, log 7). -/
def Obligations.ResetEventDropsUntakenWords : Prop :=
  ∀ (s : State) (rest : List HostEvent), s.script = .reset :: rest →
    step s = .next { State.resetOf s.params with script := rest, taken := s.taken }

/-- The state after reset, of every build in range, meets the invariant and holds only legal words. -/
def Obligations.ResetStateMeetsTheInvariant : Prop :=
  (∀ p : Params, p.wf → (State.resetOf p).Inv ∧ (State.resetOf p).wordsLegal) ∧
    State.reset.Inv ∧ State.reset.wordsLegal

/-- R23 (a) and (c), R24, R106: every step keeps the invariant. -/
def Obligations.StepKeepsTheInvariant : Prop :=
  ∀ s t : State, s.Inv → step s = .next t → t.Inv

/-- R23 (b): `strm_frames <= tot_frames` is kept by every step from a state where `tot_frames` cannot wrap. -/
def Obligations.StepKeepsStreamFramesWithinTotal : Prop :=
  ∀ s t : State, s.strmFrames.toNat ≤ s.totFrames.toNat → s.totFrames.toNat < 2 ^ 32 - 1 → step s = .next t →
    t.strmFrames.toNat ≤ t.totFrames.toNat

/-- R230: IRSD never traps or halts. A run from a state that meets the invariant never stops with a fault or a refusal,
whatever the host does and however long it goes on, and it stays in the invariant. -/
def Obligations.RunsNeverStop : Prop :=
  ∀ (k : Nat) (s : State), s.Inv → ∃ t : State, Host.Core.run Sys2Proof.core k s = .next t ∧ t.Inv

/-- R81, I12: a step adds to the run no word that I12 says is never produced: where every word taken, queued and pending
has a listed TYPE, listed codes and no payload bit set that its layout does not name, the same holds after the step,
whatever the state. These are the checks of `legalWord`, which also allows STREAM_END.STATUS only its two values; that
they are all that is checked is DEDUCED (log 14), and relations between fields are not among them. -/
def Obligations.StepEmitsOnlyLegalWords : Prop :=
  ∀ s t : State, s.wordsLegal → step s = .next t → t.wordsLegal

/-- R24: an entry at or past `min(cur_pulses, MAX_PULSES)` holds no value; a frame close leaves every entry valueless;
and no command's outcome depends on what the model's list holds there. -/
def Obligations.ValuelessEntriesAreNeverRead : Prop :=
  (∀ (s : State) (i : Nat), min s.curPulses.toNat s.params.maxPulses ≤ i → fbufRead s i = none) ∧
    (∀ s t : State, closeFrame s = .next t → ∀ i, fbufRead t i = none) ∧
    ∀ (i : Instr) (s : State),
      (∀ t, exec i s = .next t → ∃ u, exec i s.valued = .next u ∧ u.valued = t.valued) ∧
        ∀ e, exec i s = .fault e → exec i s.valued = .fault e

/-- R25: the two sticky flags. Of the commands other than CLEAR, exactly the rejected ones set `ill_seen`, exactly those
that close a frame of more than MAX_PULSES pulses set `ovf_seen`, and none clears either; CLEAR clears both. STATUS bits
2 and 3 read them, and they are 0 after reset. -/
def Obligations.StickyFlagsChangeOnlyAsStated : Prop :=
  (∀ (w : Word72) (s t : State), runCommand w s = .next t →
    (decode w ≠ .ok .clear →
      (t.illSeen = true ↔ s.illSeen = true ∨ (∃ k, decode w = .error k) ∨
        ∃ a, decode w = .ok (.readReg a) ∧ reg s a = none) ∧
      (t.ovfSeen = true ↔ s.ovfSeen = true ∨
        (decode w = .ok .endStream ∧ s.strmActive = true ∧ s.params.maxPulses < s.curPulses.toNat) ∨
        ∃ mark space, decode w = .ok (.pulse mark space) ∧ 8000 ≤ space.toNat ∧
          s.params.maxPulses < min (s.curPulses.toNat + 1) (2 ^ 32 - 1))) ∧
    (decode w = .ok .clear → t.illSeen = false ∧ t.ovfSeen = false)) ∧
  (∀ s : State, ∃ v, reg s 0x02 = some v ∧ v.getLsbD 2 = s.illSeen ∧ v.getLsbD 3 = s.ovfSeen) ∧
  ∀ s : State, (resetBlock s).illSeen = false ∧ (resetBlock s).ovfSeen = false

/-- R34: `cur_pulses` saturates and the other three wrap; END, frame close, CLEAR and reset return to 0 what R34 says;
and the four registers read the counters. -/
def Obligations.CountersSaturateWrapAndReturnToZero : Prop :=
  (∀ (s t : State) (mark space : Duration), exec (.pulse mark space) s = .next t →
      t.totPulses.toNat = (s.totPulses.toNat + 1) % 2 ^ 32 ∧
        (space.toNat < 8000 → t.curPulses.toNat = min (s.curPulses.toNat + 1) 0xFFFFFFFF)) ∧
    (∀ s t : State, closeFrame s = .next t →
      t.curPulses = 0 ∧ t.strmFrames.toNat = (s.strmFrames.toNat + 1) % 2 ^ 32 ∧
        t.totFrames.toNat = (s.totFrames.toNat + 1) % 2 ^ 32) ∧
    (∀ s t : State, s.Inv → exec .endStream s = .next t → t.curPulses = 0 ∧ t.strmFrames = 0) ∧
    (∀ s t : State, exec .clear s = .next t →
      t.curPulses = 0 ∧ t.strmFrames = 0 ∧ t.totFrames = 0 ∧ t.totPulses = 0) ∧
    (∀ s : State, (resetBlock s).curPulses = 0 ∧ (resetBlock s).strmFrames = 0 ∧ (resetBlock s).totFrames = 0 ∧
      (resetBlock s).totPulses = 0) ∧
    ∀ s : State, reg s 0x03 = some s.curPulses ∧ reg s 0x04 = some s.strmFrames ∧ reg s 0x05 = some s.totFrames ∧
      reg s 0x06 = some s.totPulses

/-! ## Registers -/

/-- R30: what each register reads in every state, and which addresses are unimplemented. STATUS and CAPS are stated bit
by bit in statements of their own. -/
def Obligations.RegisterTableReadsAsGiven : Prop :=
  (∀ s : State, reg s 0x00 = some s.params.blockId ∧ (reg s 0x01).isSome ∧ (reg s 0x02).isSome ∧
      reg s 0x03 = some s.curPulses ∧ reg s 0x04 = some s.strmFrames ∧ reg s 0x05 = some s.totFrames ∧
      reg s 0x06 = some s.totPulses ∧ reg s 0x10 = some 8000 ∧ reg s 0x11 = some 300 ∧ reg s 0x12 = some 3520 ∧
      reg s 0x13 = some 1760 ∧ reg s 0x14 = some 8992 ∧ reg s 0x15 = some 4496 ∧ reg s 0x16 = some 8992 ∧
      reg s 0x17 = some 2248 ∧ reg s 0x18 = some 2400 ∧ reg s 0x19 = some 600 ∧ reg s 0x1A = some 1200 ∧
      reg s 0x1B = some 100 ∧ reg s 0x1C = some 440 ∧ reg s 0x1D = some 562 ∧ reg s 0x1E = some 600) ∧
    ∀ (s : State) (a : RegAddr),
      reg s a = none ↔ (0x07 ≤ a.toNat ∧ a.toNat ≤ 0x0F) ∨ (0x1F ≤ a.toNat ∧ a.toNat ≤ 0xFF)

/-- R33: STATUS bit by bit in every state, and its reset value. -/
def Obligations.StatusBitsShowTheState : Prop :=
  (∀ s : State, ∃ v, reg s 0x02 = some v ∧ v.getLsbD 0 = s.strmActive ∧ v.getLsbD 1 = decide (s.curPulses ≠ 0) ∧
      v.getLsbD 2 = s.illSeen ∧ v.getLsbD 3 = s.ovfSeen ∧
      v.getLsbD 4 = decide (s.params.maxPulses < s.curPulses.toNat) ∧ ∀ i, 5 ≤ i → v.getLsbD i = false) ∧
    ∀ s : State, reg (resetBlock s) 0x02 = some 0

/-- R32: the fields of CAPS, the same in every state of a build in range. -/
def Obligations.CapsFieldsAreHardwired : Prop :=
  ∀ s : State, s.params.wf → ∃ v, reg s 0x01 = some v ∧ (v.extractLsb' 0 16).toNat = s.params.maxPulses ∧
    v.extractLsb' 16 8 = 0x01#8 ∧ v.extractLsb' 24 8 = 0#8

/-! ## Control commands -/

/-- R200: NOP has no effect and emits nothing; a NOP word with a non-zero reserved bit is rejected. -/
def Obligations.NopHasNoEffect : Prop :=
  (∀ s : State, exec .nop s = .next s) ∧
    (∀ s : State, runCommand 0x00_00000000_00000000 s = .next s) ∧
    ∀ (s : State) (w : Word72), opField w = 0x00 → aField w ≠ 0 ∨ bField w ≠ 0 →
      runCommand w s = .next (rejectedState s 0x00 .reservedNonzero 0)

/-- R202: CLEAR puts every element but `pending` and `outq` to its reset value and emits nothing; a CLEAR word with a
non-zero reserved bit is rejected. -/
def Obligations.ClearResetsAllButTheOutput : Prop :=
  (∀ s : State, exec .clear s =
      .next { s with strmActive := false, curPulses := 0, fbuf := [], strmFrames := 0, totFrames := 0, totPulses := 0,
                     illSeen := false, ovfSeen := false }) ∧
    (∀ s : State, runCommand 0x03_00000000_00000000 s = exec .clear s) ∧
    ∀ (s : State) (w : Word72), opField w = 0x03 → aField w ≠ 0 ∨ bField w ≠ 0 →
      runCommand w s = .next (rejectedState s 0x03 .reservedNonzero 0)

/-- R203: READ_REG of an implemented address emits one REG_VALUE word and changes nothing else; of an unimplemented
address it is rejected with BAD_REG_ADDR; a word with a non-zero reserved bit is rejected first. -/
def Obligations.ReadRegEmitsTheRegister : Prop :=
  (∀ (s : State) (a : RegAddr) (v : RegValue), reg s a = some v →
      exec (.readReg a) s = .next { s with pending := s.pending ++ [(Record.regValue a v).word] }) ∧
    (∀ (s : State) (a : RegAddr), (0x07 ≤ a.toNat ∧ a.toNat ≤ 0x0F) ∨ 0x1F ≤ a.toNat →
      exec (.readReg a) s = .next (rejectedState s 0x04 .badRegAddr a)) ∧
    (∀ (s : State) (w : Word72), opField w = 0x04 → aField w = 0 → bHighField w = 0 →
      runCommand w s = exec (.readReg (addrField w)) s) ∧
    ∀ (s : State) (w : Word72), opField w = 0x04 → aField w ≠ 0 ∨ bHighField w ≠ 0 →
      runCommand w s = .next (rejectedState s 0x04 .reservedNonzero 0)

/-- R204: a register read has no side effect on any register, and a second read of the same address emits the same
word. -/
def Obligations.RegisterReadIsASnapshot : Prop :=
  ∀ (s t : State) (a : RegAddr), (reg s a).isSome → exec (.readReg a) s = .next t →
    (∀ b, reg t b = reg s b) ∧
      ∃ u w, t.pending = s.pending ++ [w] ∧ exec (.readReg a) t = .next u ∧ u.pending = s.pending ++ [w, w]

/-- R205: a rejected command sets `ill_seen`, emits one CMD_ERROR word with the opcode, the kind and (for BAD_REG_ADDR
alone) the address, changes nothing else, and is no fault. The clauses are the three reasons of rejection. -/
def Obligations.RejectedCommandsChangeNothingElse : Prop :=
  ∀ (s : State) (w : Word72),
    (0x05 ≤ (opField w).toNat → runCommand w s = .next (rejectedState s (opField w) .illegalOpcode 0)) ∧
      (opField w = 0x00 ∨ opField w = 0x02 ∨ opField w = 0x03 → aField w ≠ 0 ∨ bField w ≠ 0 →
        runCommand w s = .next (rejectedState s (opField w) .reservedNonzero 0)) ∧
      (opField w = 0x04 → aField w ≠ 0 ∨ bHighField w ≠ 0 →
        runCommand w s = .next (rejectedState s (opField w) .reservedNonzero 0)) ∧
      (opField w = 0x04 → aField w = 0 → bHighField w = 0 → reg s (addrField w) = none →
        runCommand w s = .next (rejectedState s (opField w) .badRegAddr (addrField w)))

/-! ## Segmenter -/

/-- R100: a pulse is a gap pulse exactly when its space is at least 8000, compared unsigned and inclusive, and the
threshold reads as register 0x10. -/
def Obligations.GapThresholdIsInclusive : Prop :=
  (∀ p : Pulse, isGap p = true ↔ 8000 ≤ p.space.toNat) ∧
    (∀ m : Duration, isGap ⟨m, 8000⟩ = true ∧ isGap ⟨m, 7999⟩ = false) ∧ ∀ s : State, reg s 0x10 = some 8000

/-- R101, R102, R103: PULSE stores and counts its pulse and starts a stream; a gap pulse closes the frame in the same
command, with the whole frame's record where the frame fits and FRAME_OVERFLOW's header alone (R181) where it does not.
Every other element is unchanged. PULSE is never rejected. -/
def Obligations.PulseAppendsAndClosesAtTheGap : Prop :=
  (∀ (s : State) (mark space : Duration), s.Inv → space.toNat < 8000 →
      exec (.pulse mark space) s =
        .next { s with
          strmActive := true
          curPulses := BitVec.ofNat 32 (min (s.curPulses.toNat + 1) (2 ^ 32 - 1))
          fbuf := if s.curPulses.toNat < s.params.maxPulses then s.fbuf ++ [⟨mark, space⟩] else s.fbuf
          totPulses := s.totPulses + 1 }) ∧
    (∀ (s : State) (mark space : Duration), s.Inv → 8000 ≤ space.toNat → s.curPulses.toNat < s.params.maxPulses →
      exec (.pulse mark space) s =
        .next { s with
          strmActive := true
          curPulses := 0
          fbuf := []
          strmFrames := s.strmFrames + 1
          totFrames := s.totFrames + 1
          totPulses := s.totPulses + 1
          pending := s.pending ++
            (frameRecord s.params.maxPulses (s.strmFrames.setWidth 16) (s.fbuf ++ [⟨mark, space⟩])).map Record.word }) ∧
    (∀ (s : State) (mark space : Duration), s.Inv → 8000 ≤ space.toNat → s.params.maxPulses ≤ s.curPulses.toNat →
      ∃ leader, s.fbuf.head? = some leader ∧
        exec (.pulse mark space) s =
          .next { s with
            strmActive := true
            curPulses := 0
            fbuf := []
            strmFrames := s.strmFrames + 1
            totFrames := s.totFrames + 1
            totPulses := s.totPulses + 1
            ovfSeen := true
            pending := s.pending ++ [(Record.frameHdr (s.strmFrames.setWidth 16) (classify leader) .frameOverflow
              .noField (BitVec.ofNat 16 (min (s.curPulses.toNat + 1) 65535)) 0).word] }) ∧
    ∀ (s : State) (mark space : Duration), runCommand (commandWord 0x01 mark space) s = exec (.pulse mark space) s

/-- R104, R105: END of an empty stream reports INPUT_IS_EMPTY; END of a stream closes the open frame if there is one,
then reports the stream's frame count; and it ends the stream. Every other element is unchanged. An END word with a
non-zero reserved bit is rejected. -/
def Obligations.EndClosesTheFrameAndReportsTheStream : Prop :=
  (∀ s : State, s.strmActive = false →
      exec .endStream s =
        .next { s with
          strmActive := false
          strmFrames := 0
          pending := s.pending ++ [(Record.streamEnd 0 .inputIsEmpty).word] }) ∧
    (∀ s : State, s.strmActive = true → s.curPulses = 0 →
      exec .endStream s =
        .next { s with
          strmActive := false
          strmFrames := 0
          pending := s.pending ++ [(Record.streamEnd s.strmFrames .ok).word] }) ∧
    (∀ s : State, s.Inv → s.strmActive = true → s.curPulses ≠ 0 → s.curPulses.toNat ≤ s.params.maxPulses →
      exec .endStream s =
        .next { s with
          strmActive := false
          curPulses := 0
          fbuf := []
          strmFrames := 0
          totFrames := s.totFrames + 1
          pending := s.pending ++ (frameRecord s.params.maxPulses (s.strmFrames.setWidth 16) s.fbuf ++
            [Record.streamEnd (s.strmFrames + 1) .ok]).map Record.word }) ∧
    (∀ s : State, s.Inv → s.strmActive = true → s.params.maxPulses < s.curPulses.toNat →
      ∃ leader, s.fbuf.head? = some leader ∧
        exec .endStream s =
          .next { s with
            strmActive := false
            curPulses := 0
            fbuf := []
            strmFrames := 0
            totFrames := s.totFrames + 1
            ovfSeen := true
            pending := s.pending ++ [(Record.frameHdr (s.strmFrames.setWidth 16) (classify leader) .frameOverflow
              .noField (BitVec.ofNat 16 (min s.curPulses.toNat 65535)) 0).word,
              (Record.streamEnd (s.strmFrames + 1) .ok).word] }) ∧
    (∀ s : State, runCommand 0x02_00000000_00000000 s = exec .endStream s) ∧
    ∀ (s : State) (w : Word72), opField w = 0x02 → aField w ≠ 0 ∨ bField w ≠ 0 →
      runCommand w s = .next (rejectedState s 0x02 .reservedNonzero 0)

/-- R105: an END when no PULSE has begun a stream emits the one word STREAM_END with FRAMES = 0 and STATUS = 1, and no
frame record. -/
def Obligations.EndOfEmptyStreamReportsInputIsEmpty : Prop :=
  ∀ s : State, s.strmActive = false → ∃ t, exec .endStream s = .next t ∧
    t.pending = s.pending ++ [0x08_00000000_00000001]

/-- R106: a PULSE makes the stream active, END, CLEAR and reset end it with `strm_frames` 0, NOP, READ_REG and rejected
commands neither start nor end one, and the first frame of every stream has FRAME_IDX 0. The last two clauses are about
that first frame, of any number of pulses and with any NOPs, register reads and rejected words among them, from a state of
the invariant with no stream begun: closed by its gap pulse, and closed by END. The words of the other commands before the
close are REG_VALUE and CMD_ERROR. -/
def Obligations.StreamsBeginAtTheFirstPulse : Prop :=
  (∀ (s t : State) (mark space : Duration), exec (.pulse mark space) s = .next t → t.strmActive = true) ∧
    (∀ s t : State, exec .endStream s = .next t → t.strmActive = false ∧ t.strmFrames = 0) ∧
    (∀ s t : State, exec .clear s = .next t → t.strmActive = false ∧ t.strmFrames = 0) ∧
    (∀ s : State, (resetBlock s).strmActive = false ∧ (resetBlock s).strmFrames = 0) ∧
    (∀ (s t : State) (w : Word72), runCommand w s = .next t →
      (decode w = .ok .nop ∨ (∃ a, decode w = .ok (.readReg a)) ∨ ∃ k, decode w = .error k) →
        t.strmActive = s.strmActive ∧ t.strmFrames = s.strmFrames) ∧
    ∀ (s : State) (ws : List Word72), s.Inv → s.strmActive = false →
      (∀ w ∈ ws, decode w ≠ .ok .endStream ∧ decode w ≠ .ok .clear) → (∀ p ∈ pulsesOf ws, p.space.toNat < 8000) →
      ∃ others : List Word72, (∀ w ∈ others, typeField w = 0x09 ∨ typeField w = 0x0A) ∧
        (∀ mark space : Duration, 8000 ≤ space.toNat →
          ∃ t, runWords (ws ++ [encode (.pulse mark space)]) s = .next t ∧
            t.pending = s.pending ++ others ++
              (frameRecord s.params.maxPulses 0 (pulsesOf ws ++ [⟨mark, space⟩])).map Record.word) ∧
        (pulsesOf ws ≠ [] →
          ∃ t, runWords (ws ++ [encode .endStream]) s = .next t ∧
            t.pending = s.pending ++ others ++
              (frameRecord s.params.maxPulses 0 (pulsesOf ws) ++ [Record.streamEnd 1 .ok]).map Record.word)

/-- R110: the frame records and STREAM_END of a whole stream, every other word left out, are those of the source's batch
segmenter, for every sequence of commands that delivers the stream's pulses: NOPs, register reads and rejected words may
stand among them. -/
def Obligations.StreamEqualsTheBatchSegmenter : Prop :=
  ∀ (s : State) (ws : List Word72), s.Inv → s.strmActive = false →
    (∀ w ∈ ws, decode w ≠ .ok .endStream ∧ decode w ≠ .ok .clear) →
    ∃ (t : State) (new : List Word72), runWords (ws ++ [encode .endStream]) s = .next t ∧
      t.pending = s.pending ++ new ∧
      new.filter (fun w => typeField w != 0x09 && typeField w != 0x0A) =
        (streamRecords s.params.maxPulses (pulsesOf ws)).map Record.word

/-- R111: the properties (a) to (e) of the frames of `segment(P)`. -/
def Obligations.SegmentedFramesPartitionThePulses : Prop :=
  ∀ (ps : List Pulse) (fs : List (List Pulse)), segmentPulses ps = some fs →
    (∀ f ∈ fs, f ≠ []) ∧
      fs.flatten = ps ∧
      (∀ f ∈ fs.dropLast, ∃ front gap, f = front ++ [gap] ∧ 8000 ≤ gap.space.toNat ∧
        ∀ p ∈ front, p.space.toNat < 8000) ∧
      (∀ f, fs.getLast? = some f → ∀ p ∈ f.dropLast, p.space.toNat < 8000) ∧
      fs.length = ps.countP isGap + (if ps.getLast?.any (fun p => !isGap p) then 1 else 0)

/-! ## Classifier and demodulator -/

/-- R133, R134: the four closed windows, and UNKNOWN exactly outside all of them. -/
def Obligations.ClassifyByTheFourWindows : Prop :=
  ∀ p : Pulse,
    let m := p.mark.toNat
    let s := p.space.toNat
    (classify p = .aeha ↔ (3220 ≤ m ∧ m ≤ 3820) ∧ 1460 ≤ s ∧ s ≤ 2060) ∧
      (classify p = .nec ↔ (8692 ≤ m ∧ m ≤ 9292) ∧ 4196 ≤ s ∧ s ≤ 4796) ∧
      (classify p = .necRepeat ↔ (8692 ≤ m ∧ m ≤ 9292) ∧ 1948 ≤ s ∧ s ≤ 2548) ∧
      (classify p = .sirc ↔ (2100 ≤ m ∧ m ≤ 2700) ∧ 300 ≤ s ∧ s ≤ 900) ∧
      (classify p = .unknown ↔
        ¬ ((3220 ≤ m ∧ m ≤ 3820) ∧ 1460 ≤ s ∧ s ≤ 2060) ∧ ¬ ((8692 ≤ m ∧ m ≤ 9292) ∧ 4196 ≤ s ∧ s ≤ 4796) ∧
          ¬ ((8692 ≤ m ∧ m ≤ 9292) ∧ 1948 ≤ s ∧ s ≤ 2548) ∧ ¬ ((2100 ≤ m ∧ m ≤ 2700) ∧ 300 ≤ s ∧ s ≤ 900))

/-- R136: pulse-distance modulation: Hi exactly when `s >= 2*m`, computed without wrapping; so a mark of 0x8000_0000 or
more gives Lo. -/
def Obligations.PulseDistanceComparesExactly : Prop :=
  ∀ p : Pulse, (pdm p = true ↔ 2 * p.mark.toNat ≤ p.space.toNat) ∧ (0x80000000 ≤ p.mark.toNat → pdm p = false)

/-- R137: pulse-width modulation: Hi exactly when the mark lies from 1100 to 1300, whatever the space. -/
def Obligations.PulseWidthReadsTheMarkOnly : Prop :=
  ∀ m s : Duration, pwm ⟨m, s⟩ = true ↔ 1100 ≤ m.toNat ∧ m.toNat ≤ 1300

/-- R138: the leader's tag picks the line code; every pulse but the leader gives one bit, in order; an unknown frame keeps
its pulses, the leader too. -/
def Obligations.DemodulateOneBitPerPulse : Prop :=
  ∀ (leader : Pulse) (rest : List Pulse),
    (classify leader = .aeha → ∃ bits, demodulate leader rest = .aeha bits ∧ bits.length = rest.length ∧
        ∀ i (h : i < rest.length), bits[i]? = some (pdm rest[i])) ∧
      (classify leader = .nec → ∃ bits, demodulate leader rest = .nec bits ∧ bits.length = rest.length ∧
        ∀ i (h : i < rest.length), bits[i]? = some (pdm rest[i])) ∧
      (classify leader = .sirc → ∃ bits, demodulate leader rest = .sirc bits ∧ bits.length = rest.length ∧
        ∀ i (h : i < rest.length), bits[i]? = some (pwm rest[i])) ∧
      (classify leader = .necRepeat → demodulate leader rest = .necRepeat) ∧
      (classify leader = .unknown → demodulate leader rest = .unknown (leader :: rest))

/-- R140: what the rules give for a gap pulse at the end of a frame and for a leader alone. -/
def Obligations.GapPulseBitsAndLoneLeaders : Prop :=
  (∀ p : Pulse, 8000 ≤ p.space.toNat → p.mark.toNat ≤ 4000 → pdm p = true) ∧
    (∀ m s s' : Duration, pwm ⟨m, s⟩ = pwm ⟨m, s'⟩) ∧
    ∀ p : Pulse, demodulate p [] = .aeha [] ∨ demodulate p [] = .nec [] ∨ demodulate p [] = .sirc [] ∨
      demodulate p [] = .necRepeat ∨ demodulate p [] = .unknown [p]

/-! ## Frame decoder and frame records -/

/-- R161, R162, R164: fewer than 2 bits give INPUT_IS_EMPTY; otherwise the data bits (all but the last) fill
`ceil((L-1)/8)` octets least significant bit first, zero past the end, carried eight to an AEHA_OCTETS word, after an
AEHA_INFO word with the octet count, the width of the last octet and the stop bit. -/
def Obligations.AehaBitsBecomeOctets : Prop :=
  ∀ bits : List Bit,
    (bits.length < 2 → decodeAeha bits = ⟨.inputIsEmpty, .noField, []⟩) ∧
      (2 ≤ bits.length →
        let d := bits.length - 1
        let q := (d + 7) / 8
        (aehaOctetList bits).length = q ∧
          (∀ j < q, ∃ o, (aehaOctetList bits)[j]? = some o ∧
            ∀ b < 8, o.getLsbD b = (decide (8 * j + b < d) && bits.getD (8 * j + b) false)) ∧
          1 ≤ d - 8 * (q - 1) ∧ d - 8 * (q - 1) ≤ 8 ∧ (bits.length ≤ 65534 → q ≤ 8192) ∧
          ∃ words : List Record,
            decodeAeha bits =
              ⟨.ok, .noField, .aehaInfo (BitVec.ofNat 16 q) (BitVec.ofNat 4 (d - 8 * (q - 1)))
                (bits.getLast?.getD false) :: words⟩ ∧
              words.length = (q + 7) / 8 ∧
              ∀ w < words.length, ∃ lanes, words[w]? = some (.aehaOctets lanes) ∧
                ∀ i < 64, lanes.getLsbD i = (decide (64 * w + i < d) && bits.getD (64 * w + i) false))

/-- R165, R166, R168: a short NEC sequence names its first incomplete field; from 33 bits on, the four fields are the
first four octets, least significant bit first, the stop bit is bit 32, and no field is checked against another. -/
def Obligations.NecBitsBecomeFields : Prop :=
  ∀ bits : List Bit,
    (bits.length < 8 → decodeNec bits = ⟨.insufficientInputData, .custom0, []⟩) ∧
      (8 ≤ bits.length → bits.length < 16 → decodeNec bits = ⟨.insufficientInputData, .custom1, []⟩) ∧
      (16 ≤ bits.length → bits.length < 24 → decodeNec bits = ⟨.insufficientInputData, .data0, []⟩) ∧
      (24 ≤ bits.length → bits.length < 32 → decodeNec bits = ⟨.insufficientInputData, .data1, []⟩) ∧
      (bits.length = 32 → decodeNec bits = ⟨.insufficientInputData, .stop, []⟩) ∧
      (33 ≤ bits.length → ∃ c0 c1 d0 d1 stop,
        decodeNec bits = ⟨.ok, .noField, [.necFields c0 c1 d0 d1 stop]⟩ ∧ some stop = bits[32]? ∧
          ∀ i < 8, some (c0.getLsbD i) = bits[i]? ∧ some (c1.getLsbD i) = bits[8 + i]? ∧
            some (d0.getLsbD i) = bits[16 + i]? ∧ some (d1.getLsbD i) = bits[24 + i]?)

/-- R170, R172: a SIRC sequence of 12, 15 or 20 bits decodes to its command, address and extended fields, least
significant bit first; any other length is UNKNOWN_PROTOCOL. -/
def Obligations.SircBitsBecomeFields : Prop :=
  ∀ bits : List Bit,
    (bits.length ≠ 12 → bits.length ≠ 15 → bits.length ≠ 20 → decodeSirc bits = ⟨.unknownProtocol, .noField, []⟩) ∧
      (bits.length = 12 ∨ bits.length = 15 ∨ bits.length = 20 → ∃ cmd addr ext variant,
        decodeSirc bits = ⟨.ok, .noField, [.sircFields cmd addr ext variant]⟩ ∧
          (∀ i < 7, some (cmd.getLsbD i) = bits[i]?) ∧
          (bits.length = 12 → variant = .sirc12 ∧ ext = 0 ∧
            (∀ i < 5, some (addr.getLsbD i) = bits[7 + i]?) ∧ addr.extractLsb' 5 3 = 0#3) ∧
          (bits.length = 15 → variant = .sirc15 ∧ ext = 0 ∧ ∀ i < 8, some (addr.getLsbD i) = bits[7 + i]?) ∧
          (bits.length = 20 → variant = .sirc20 ∧ (∀ i < 8, some (ext.getLsbD i) = bits[12 + i]?) ∧
            (∀ i < 5, some (addr.getLsbD i) = bits[7 + i]?) ∧ addr.extractLsb' 5 3 = 0#3))

/-- R182: `ceil(L/64)` BITS words, bit `i` of the sequence at position `i mod 64` of word `i/64` and 0 past the end; they
follow the header of a demodulated frame whatever the decode status. R184, R185, R186: after them stand exactly the
decoder's words, which the statements on each decoder give. -/
def Obligations.BitsWordsCarryTheSequence : Prop :=
  (∀ bits : List Bit, (bitsWords bits).length = (bits.length + 63) / 64 ∧
      ∀ w < (bitsWords bits).length, ∃ p, (bitsWords bits)[w]? = some (.bits p) ∧
        ∀ i < 64, p.getLsbD i = bits.getD (64 * w + i) false) ∧
    ∀ (max : Nat) (k : BitVec 16) (leader : Pulse) (rest : List Pulse), rest.length + 1 ≤ max →
      (classify leader = .aeha → ∃ hdr, typeField hdr.word = 0x01 ∧ frameRecord max k (leader :: rest) =
        hdr :: (bitsWords (rest.map pdm) ++ (decodeAeha (rest.map pdm)).words)) ∧
      (classify leader = .nec → ∃ hdr, typeField hdr.word = 0x01 ∧ frameRecord max k (leader :: rest) =
        hdr :: (bitsWords (rest.map pdm) ++ (decodeNec (rest.map pdm)).words)) ∧
      (classify leader = .sirc → ∃ hdr, typeField hdr.word = 0x01 ∧ frameRecord max k (leader :: rest) =
        hdr :: (bitsWords (rest.map pwm) ++ (decodeSirc (rest.map pwm)).words))

/-- R173, R174, R183: the whole record of an UNKNOWN frame (its raw pulses, the leader first) and of a NEC_REPEAT frame
(the header alone), where the frame fits. -/
def Obligations.UnknownAndRepeatFrameRecords : Prop :=
  ∀ (max : Nat) (k : BitVec 16) (leader : Pulse) (rest : List Pulse), max ≤ 65535 → rest.length + 1 ≤ max →
    (classify leader = .unknown → frameRecord max k (leader :: rest) =
        .frameHdr k .unknown .unknownProtocol .noField (BitVec.ofNat 16 (rest.length + 1)) 0 ::
          (leader :: rest).map Record.rawPulse) ∧
      (classify leader = .necRepeat → frameRecord max k (leader :: rest) =
        [.frameHdr k .necRepeat .ok .noField (BitVec.ofNat 16 (rest.length + 1)) 0])

/-- R82, R180, R233: every frame record is one FRAME_HDR and then words of other types; its fields are the index, the
leader's tag, the one status in the order of R233, the missing field, `sat_16(n)` and the bit count. -/
def Obligations.FrameHeaderTellsTheFrame : Prop :=
  ∀ (max : Nat) (k : BitVec 16) (leader : Pulse) (rest : List Pulse),
    let n := rest.length + 1
    ∃ status field bitCount tail,
      frameRecord max k (leader :: rest) =
        .frameHdr k (classify leader) status field (BitVec.ofNat 16 (min n 65535)) bitCount :: tail ∧
        (∀ r ∈ tail, typeField r.word ≠ 0x01) ∧
        (max < n → status = .frameOverflow ∧ field = .noField ∧ bitCount = 0 ∧ tail = []) ∧
        (n ≤ max →
          (classify leader = .unknown → status = .unknownProtocol ∧ field = .noField ∧ bitCount = 0) ∧
          (classify leader = .necRepeat → status = .ok ∧ field = .noField ∧ bitCount = 0) ∧
          (classify leader = .aeha → status = (decodeAeha (rest.map pdm)).status ∧ field = .noField ∧
            bitCount = BitVec.ofNat 16 (n - 1)) ∧
          (classify leader = .nec → status = (decodeNec (rest.map pdm)).status ∧
            field = (decodeNec (rest.map pdm)).field ∧ bitCount = BitVec.ofNat 16 (n - 1)) ∧
          (classify leader = .sirc → status = (decodeSirc (rest.map pwm)).status ∧ field = .noField ∧
            bitCount = BitVec.ofNat 16 (n - 1)))

/-- R187: the number of words in a frame record, the largest record, and the largest output of one command. -/
def Obligations.FrameRecordWordCounts : Prop :=
  (∀ (max : Nat) (k : BitVec 16) (leader : Pulse) (rest : List Pulse),
      let n := rest.length + 1
      let words := (frameRecord max k (leader :: rest)).length
      (max < n → words = 1) ∧
        (n ≤ max →
          (classify leader = .unknown → words = 1 + n) ∧
          (classify leader = .necRepeat → words = 1) ∧
          (classify leader = .aeha → n - 1 < 2 → words = 1 + (n - 1 + 63) / 64) ∧
          (classify leader = .aeha → 2 ≤ n - 1 →
            words = 1 + (n - 1 + 63) / 64 + 1 + ((n - 2 + 7) / 8 + 7) / 8) ∧
          (classify leader = .nec → n - 1 < 33 → words = 1 + (n - 1 + 63) / 64) ∧
          (classify leader = .nec → 33 ≤ n - 1 → words = 1 + (n - 1 + 63) / 64 + 1) ∧
          (classify leader = .sirc → n - 1 = 12 ∨ n - 1 = 15 ∨ n - 1 = 20 → words = 1 + (n - 1 + 63) / 64 + 1) ∧
          (classify leader = .sirc → n - 1 ≠ 12 → n - 1 ≠ 15 → n - 1 ≠ 20 → words = 1 + (n - 1 + 63) / 64) ∧
          words ≤ 1 + max)) ∧
    ∀ (i : Instr) (s t : State), s.Inv → exec i s = .next t →
      t.pending.length ≤ s.pending.length + s.params.maxPulses + 2

/-! ## Ordering, back-pressure and runs -/

/-- R55, R56, R270: when IRSD is ready, a step takes the host's command word and runs the command it decodes to. -/
def Obligations.StepRunsTheDecodedCommand : Prop :=
  ∀ (s : State) (w : Word72) (i : Instr) (rest : List HostEvent), s.script = .command w :: rest → s.pending = [] →
    decode w = .ok i → step s = exec i { s with script := rest }

/-- R56, R272: a command word offered while `pending` is not empty is not taken: the step moves one word if `outq` has
room; and with `outq` full it holds, for ever, until the host's script brings a take or a reset. How the host's side is
written down is the model's choice (log 3). -/
def Obligations.HoldsWhilePendingWaits : Prop :=
  (∀ (s : State) (c w : Word72) (ws : List Word72) (rest : List HostEvent), s.script = .command c :: rest →
      s.pending = w :: ws → s.outq.length < s.params.outDepth →
        step s = .next { s with pending := ws, outq := s.outq ++ [w] }) ∧
    (∀ (k : Nat) (s : State), s.pending ≠ [] → s.params.outDepth ≤ s.outq.length →
      s.script = [] ∨ (∃ c rest, s.script = .command c :: rest) →
        Host.Core.run Sys2Proof.core k s = .next s) ∧
    ∀ (s : State) (rest : List HostEvent), s.Inv → s.script = .take :: rest → s.params.outDepth ≤ s.outq.length →
      ∃ t : State, step s = .next t ∧ t.outq.length < t.params.outDepth ∧ t.pending = s.pending

/-- R54, R270: a take removes the head of `outq` and delivers that word; nothing else changes. -/
def Obligations.TakeDeliversTheHead : Prop :=
  ∀ (s : State) (w : Word72) (ws : List Word72) (rest : List HostEvent), s.script = .take :: rest → s.outq = w :: ws →
    step s = .next { s with outq := ws, taken := s.taken ++ [w], script := rest }

/-- R55, R56: no command touches `outq`, the build or the host's side, and it only adds words at the tail of
`pending`. -/
def Obligations.CommandsOnlyAppendToPending : Prop :=
  ∀ (w : Word72) (s t : State), runCommand w s = .next t →
    t.outq = s.outq ∧ t.params = s.params ∧ t.script = s.script ∧ t.taken = s.taken ∧
      ∃ new, t.pending = s.pending ++ new

/-- R55: nothing is reordered, merged or dropped. In a run without a reset, the words taken, queued and pending only grow
at the tail. -/
def Obligations.ResultStreamOnlyGrows : Prop :=
  ∀ (k : Nat) (s t : State), (∀ e ∈ s.script, e ≠ .reset) → Host.Core.run Sys2Proof.core k s = .next t →
    ∃ new, t.resultStream = s.resultStream ++ new

/-- R5, R55: the block with its FIFO, its moves and its host is refined by running the commands one after another. A run
without a reset that has used up the host's script ends with the words and the elements that the script's commands give
in order: OUT_DEPTH and the times of takes and moves change no output. -/
def Obligations.RunsMatchSequentialExecution : Prop :=
  ∀ (k : Nat) (s t : State), (∀ e ∈ s.script, e ≠ .reset) → Host.Core.run Sys2Proof.core k s = .next t →
    t.script = [] →
      ∃ u, runWords (commandWords s.script) s = .next u ∧ SameCore t u ∧ t.resultStream = u.resultStream

/-- R275: what is waiting is delivered in a bounded number of steps to a host that keeps taking, and the run is then
finished (R274). The number of steps is the model's (log 4). -/
def Obligations.TakingHostGetsEveryWord : Prop :=
  ∀ s : State, s.Inv → s.script = List.replicate (s.pending.length + s.outq.length) .take →
    ∃ t : State, Host.Core.run Sys2Proof.core (2 * s.pending.length + s.outq.length) s = .next t ∧ t.finished ∧
      t.script = [] ∧ t.taken = s.taken ++ s.outq ++ s.pending

/-! ## Command text -/

/-- R75: each pseudo-instruction expands to its one PULSE, which classifies or demodulates as the table says. -/
def Obligations.PseudoInstructionsExpandAsTabled : Prop :=
  pseudoPulse .ldrAeha = ⟨3520, 1760⟩ ∧ pseudoPulse .ldrNec = ⟨8992, 4496⟩ ∧ pseudoPulse .ldrNecr = ⟨8992, 2248⟩ ∧
    pseudoPulse .ldrSirc = ⟨2400, 600⟩ ∧ pseudoPulse (.dataBit .aeha0 false) = ⟨440, 440⟩ ∧
    pseudoPulse (.dataBit .aeha1 false) = ⟨440, 1320⟩ ∧ pseudoPulse (.dataBit .nec0 false) = ⟨562, 562⟩ ∧
    pseudoPulse (.dataBit .nec1 false) = ⟨562, 1686⟩ ∧ pseudoPulse (.dataBit .sirc0 false) = ⟨600, 600⟩ ∧
    pseudoPulse (.dataBit .sirc1 false) = ⟨1200, 600⟩ ∧
    (∀ b, pseudoPulse (.dataBit b true) = ⟨(pseudoPulse (.dataBit b false)).mark, 8000⟩) ∧
    (∀ p, assembleSource (.pseudo p) = .ok (encode (.pulse (pseudoPulse p).mark (pseudoPulse p).space))) ∧
    classify (pseudoPulse .ldrAeha) = .aeha ∧ classify (pseudoPulse .ldrNec) = .nec ∧
    classify (pseudoPulse .ldrNecr) = .necRepeat ∧ classify (pseudoPulse .ldrSirc) = .sirc ∧
    pdm (pseudoPulse (.dataBit .aeha0 false)) = false ∧ pdm (pseudoPulse (.dataBit .aeha1 false)) = true ∧
    pdm (pseudoPulse (.dataBit .nec0 false)) = false ∧ pdm (pseudoPulse (.dataBit .nec1 false)) = true ∧
    pwm (pseudoPulse (.dataBit .sirc0 false)) = false ∧ pwm (pseudoPulse (.dataBit .sirc1 false)) = true ∧
    pdm (pseudoPulse (.dataBit .aeha0 true)) = true ∧ pdm (pseudoPulse (.dataBit .aeha1 true)) = true ∧
    pdm (pseudoPulse (.dataBit .nec0 true)) = true ∧ pdm (pseudoPulse (.dataBit .nec1 true)) = true ∧
    pwm (pseudoPulse (.dataBit .sirc0 true)) = false ∧ pwm (pseudoPulse (.dataBit .sirc1 true)) = true

/-- R74: an operand that does not fit its field is refused, and a line of one of the five commands that is assembled
decodes to that command with the operands as written. -/
def Obligations.AssembledCommandsDecodeAsWritten : Prop :=
  (∀ mark space : Nat, 2 ^ 32 ≤ mark ∨ 2 ^ 32 ≤ space → assembleSource (.pulse mark space) = .error .operandTooWide) ∧
    (∀ addr : Nat, 2 ^ 8 ≤ addr → assembleSource (.readReg addr) = .error .operandTooWide) ∧
    (∀ mark space : Nat, mark < 2 ^ 32 → space < 2 ^ 32 → ∃ w m s,
      assembleSource (.pulse mark space) = .ok w ∧ decode w = .ok (.pulse m s) ∧ m.toNat = mark ∧ s.toNat = space) ∧
    (∀ addr : Nat, addr < 2 ^ 8 → ∃ w a,
      assembleSource (.readReg addr) = .ok w ∧ decode w = .ok (.readReg a) ∧ a.toNat = addr) ∧
    (∃ w, assembleSource .nop = .ok w ∧ decode w = .ok .nop) ∧
    (∃ w, assembleSource .endStream = .ok w ∧ decode w = .ok .endStream) ∧
    ∃ w, assembleSource .clear = .ok w ∧ decode w = .ok .clear

/-! ## The end of a run -/

/-- R274: once a run is finished (the last command delivered, `pending` and `outq` empty), its observation is complete:
however long it goes on, and whatever takes, waits and resets are left in the host's script, no word is taken any more and
the run stays finished. -/
def Obligations.FinishedRunsDeliverNothingMore : Prop :=
  ∀ (k : Nat) (s : State), s.finished →
    ∃ t : State, Host.Core.run Sys2Proof.core k s = .next t ∧ t.finished ∧ t.taken = s.taken
end

