-- ==== Sys2Proof/Laws/Bits.lean ====
section
/-! SUPPORT. The bits of folded sequences, slices and packed octets. -/

namespace Sys2Proof.Machine

theorem foldLsb_testBit (bs : List Bit) (i : Nat) : (foldLsb bs).testBit i = bs.getD i false := by
  induction bs generalizing i with
  | nil => simp [foldLsb]
  | cons b bs ih =>
    cases i with
    | zero => cases b <;> simp [foldLsb]
    | succ i =>
      have h : (b.toNat + 2 * foldLsb bs) / 2 = foldLsb bs := by
        cases b
        · simp
        · simp only [Bool.toNat_true]
          omega
      simp [foldLsb, Nat.testBit_add_one, h, ih]

theorem foldLsb_lt (bs : List Bit) : foldLsb bs < 2 ^ bs.length := by
  induction bs with
  | nil => simp [foldLsb]
  | cons b bs ih => cases b <;> (simp [foldLsb, Nat.pow_succ]; omega)

theorem slice_length {α : Type} (s : List α) (a len : Nat) : (slice s a len).length = min len (s.length - a) := by
  simp [slice]

theorem slice_getElem? {α : Type} (s : List α) (a len i : Nat) :
    (slice s a len)[i]? = if i < len then s[a + i]? else none := by
  simp [slice, List.getElem?_take]

theorem foldField_getLsbD (n : Nat) (bits : List Bit) (a len i : Nat) (hi : i < n) :
    (foldField n bits a len).getLsbD i = (decide (i < len) && bits.getD (a + i) false) := by
  rw [foldField, BitVec.getLsbD_ofNat, foldLsb_testBit, List.getD_eq_getElem?_getD, List.getD_eq_getElem?_getD,
    slice_getElem?]
  by_cases h : i < len <;> simp [hi, h]

theorem packOctets_testBit (os : List (BitVec 8)) (i : Nat) :
    (packOctets os).testBit i = (os.getD (i / 8) 0).getLsbD (i % 8) := by
  induction os generalizing i with
  | nil => simp [packOctets]
  | cons o os ih =>
    have hsplit : o.toNat + 256 * packOctets os = 2 ^ 8 * packOctets os + o.toNat := by omega
    rw [packOctets, hsplit, Nat.testBit_two_pow_mul_add _ o.isLt]
    by_cases h : i < 8
    · have : i / 8 = 0 := by omega
      simp [h, this, Nat.mod_eq_of_lt h, BitVec.getLsbD]
    · have : i / 8 = (i - 8) / 8 + 1 := by omega
      have hm : (i - 8) % 8 = i % 8 := by omega
      simp [h, this, ih, hm]

end Sys2Proof.Machine
end

