-- ==== Sys2Proof/Laws/Classifier.lean ====
section
/-! SUPPORT. The timing constants by value, and the classifier's and demapper's tests as inequalities over them. -/

namespace Sys2Proof.Machine

@[simp] theorem timing_gapThreshold : timing.gapThreshold = 8000 := rfl
@[simp] theorem timing_leaderTol : timing.leaderTol = 300 := rfl
@[simp] theorem timing_aehaLdrMark : timing.aehaLdrMark = 3520 := rfl
@[simp] theorem timing_aehaLdrSpace : timing.aehaLdrSpace = 1760 := rfl
@[simp] theorem timing_necLdrMark : timing.necLdrMark = 8992 := rfl
@[simp] theorem timing_necLdrSpace : timing.necLdrSpace = 4496 := rfl
@[simp] theorem timing_necrLdrMark : timing.necrLdrMark = 8992 := rfl
@[simp] theorem timing_necrLdrSpace : timing.necrLdrSpace = 2248 := rfl
@[simp] theorem timing_sircLdrMark : timing.sircLdrMark = 2400 := rfl
@[simp] theorem timing_sircLdrSpace : timing.sircLdrSpace = 600 := rfl
@[simp] theorem timing_sircHiMark : timing.sircHiMark = 1200 := rfl
@[simp] theorem timing_sircHiTol : timing.sircHiTol = 100 := rfl
@[simp] theorem timing_aehaT : timing.aehaT = 440 := rfl
@[simp] theorem timing_necT : timing.necT = 562 := rfl
@[simp] theorem timing_sircT : timing.sircT = 600 := rfl

theorem isGap_iff (p : Pulse) : isGap p = true ↔ timing.gapThreshold ≤ p.space.toNat := by
  simp only [isGap, decide_eq_true_eq]

theorem inWin_iff (x c t : Nat) : inWin x c t = true ↔ c - t ≤ x ∧ x ≤ c + t := by
  simp only [inWin, Bool.and_eq_true, decide_eq_true_eq]

theorem leaderIn_iff (p : Pulse) (mark space : Nat) :
    leaderIn p mark space = true ↔
      inWin p.mark.toNat mark timing.leaderTol = true ∧ inWin p.space.toNat space timing.leaderTol = true := by
  simp only [leaderIn, Bool.and_eq_true]

end Sys2Proof.Machine
end

