-- ==== Sys2Proof/Laws/Fields.lean ====
section
/-! SUPPORT. The fields of command words and of result words. -/

namespace Sys2Proof

theorem extract_append_low {n m : Nat} (x : BitVec n) (y : BitVec m) {i k : Nat} (h : i + k ≤ m) :
    (x ++ y).extractLsb' i k = y.extractLsb' i k := by
  apply BitVec.eq_of_getLsbD_eq
  intro j hj
  rw [BitVec.getLsbD_extractLsb', BitVec.getLsbD_extractLsb', BitVec.getLsbD_append, if_pos (by omega)]

theorem extract_append_high {n m : Nat} (x : BitVec n) (y : BitVec m) {i k : Nat} (h : m ≤ i) :
    (x ++ y).extractLsb' i k = x.extractLsb' (i - m) k := by
  apply BitVec.eq_of_getLsbD_eq
  intro j hj
  rw [BitVec.getLsbD_extractLsb', BitVec.getLsbD_extractLsb', BitVec.getLsbD_append, if_neg (by omega),
    (by omega : i + j - m = i - m + j)]

theorem extract_whole {n : Nat} (x : BitVec n) : x.extractLsb' 0 n = x := by
  apply BitVec.eq_of_getLsbD_eq
  intro j hj
  simp [hj]

theorem opField_commandWord (op : BitVec 8) (a b : BitVec 32) : opField (commandWord op a b) = op := by
  apply BitVec.eq_of_getLsbD_eq
  intro i hi
  simp only [opField, commandWord, BitVec.getLsbD_append, BitVec.getLsbD_extractLsb']
  simp only [hi, decide_true, Bool.true_and]
  rw [if_neg (by omega), if_neg (by omega), (by omega : 64 + i - 32 - 32 = i)]

theorem aField_commandWord (op : BitVec 8) (a b : BitVec 32) : aField (commandWord op a b) = a := by
  apply BitVec.eq_of_getLsbD_eq
  intro i hi
  simp only [aField, commandWord, BitVec.getLsbD_append, BitVec.getLsbD_extractLsb']
  simp [hi]

theorem bField_commandWord (op : BitVec 8) (a b : BitVec 32) : bField (commandWord op a b) = b := by
  apply BitVec.eq_of_getLsbD_eq
  intro i hi
  simp only [bField, commandWord, BitVec.getLsbD_append, BitVec.getLsbD_extractLsb']
  simp [hi]

theorem addrField_eq (w : Word72) : addrField w = (bField w).extractLsb' 0 8 := by
  apply BitVec.eq_of_getLsbD_eq
  intro i hi
  simp only [addrField, bField, BitVec.getLsbD_extractLsb']
  simp [hi, (by omega : i < 32)]

theorem bHighField_eq (w : Word72) : bHighField w = (bField w).extractLsb' 8 24 := by
  apply BitVec.eq_of_getLsbD_eq
  intro i hi
  simp only [bHighField, bField, BitVec.getLsbD_extractLsb']
  simp [hi, (by omega : 8 + i < 32)]

theorem commandWord_fields (w : Word72) : commandWord (opField w) (aField w) (bField w) = w := by
  apply BitVec.eq_of_getLsbD_eq
  intro i hi
  simp only [commandWord, opField, aField, bField, BitVec.getLsbD_append, BitVec.getLsbD_extractLsb']
  by_cases h1 : i < 32
  · simp [h1]
  · by_cases h2 : i - 32 < 32
    · simp [h1, h2, (by omega : 32 + (i - 32) = i)]
    · simp [h1, h2, (by omega : i - 32 - 32 < 8), (by omega : 64 + (i - 32 - 32) = i)]

end Sys2Proof

namespace Sys2Proof.Machine

theorem typeField_resultWord (ty : BitVec 8) (p : BitVec 64) : typeField (resultWord ty p) = ty := by
  apply BitVec.eq_of_getLsbD_eq
  intro i hi
  simp only [typeField, resultWord, BitVec.getLsbD_append, BitVec.getLsbD_extractLsb']
  simp [hi]

theorem payloadField_resultWord (ty : BitVec 8) (p : BitVec 64) : payloadField (resultWord ty p) = p := by
  apply BitVec.eq_of_getLsbD_eq
  intro i hi
  simp only [payloadField, resultWord, BitVec.getLsbD_append, BitVec.getLsbD_extractLsb']
  simp [hi]

end Sys2Proof.Machine
end

