-- ==== Sys2Proof/Laws/State.lean ====
section
/-! SUPPORT. What each named update does to each field of the state: one lemma per field per update, so that no proof
unfolds a record update. -/

namespace Sys2Proof.Machine

/-! `setIllSeen` -/

@[simp] theorem setIllSeen_strmActive (s : State) : (setIllSeen s).strmActive = s.strmActive := rfl
@[simp] theorem setIllSeen_curPulses (s : State) : (setIllSeen s).curPulses = s.curPulses := rfl
@[simp] theorem setIllSeen_fbuf (s : State) : (setIllSeen s).fbuf = s.fbuf := rfl
@[simp] theorem setIllSeen_strmFrames (s : State) : (setIllSeen s).strmFrames = s.strmFrames := rfl
@[simp] theorem setIllSeen_totFrames (s : State) : (setIllSeen s).totFrames = s.totFrames := rfl
@[simp] theorem setIllSeen_totPulses (s : State) : (setIllSeen s).totPulses = s.totPulses := rfl
@[simp] theorem setIllSeen_illSeen (s : State) : (setIllSeen s).illSeen = true := rfl
@[simp] theorem setIllSeen_ovfSeen (s : State) : (setIllSeen s).ovfSeen = s.ovfSeen := rfl
@[simp] theorem setIllSeen_pending (s : State) : (setIllSeen s).pending = s.pending := rfl
@[simp] theorem setIllSeen_outq (s : State) : (setIllSeen s).outq = s.outq := rfl
@[simp] theorem setIllSeen_params (s : State) : (setIllSeen s).params = s.params := rfl
@[simp] theorem setIllSeen_script (s : State) : (setIllSeen s).script = s.script := rfl
@[simp] theorem setIllSeen_taken (s : State) : (setIllSeen s).taken = s.taken := rfl

/-! `setOvfSeen` -/

@[simp] theorem setOvfSeen_strmActive (s : State) : (setOvfSeen s).strmActive = s.strmActive := rfl
@[simp] theorem setOvfSeen_curPulses (s : State) : (setOvfSeen s).curPulses = s.curPulses := rfl
@[simp] theorem setOvfSeen_fbuf (s : State) : (setOvfSeen s).fbuf = s.fbuf := rfl
@[simp] theorem setOvfSeen_strmFrames (s : State) : (setOvfSeen s).strmFrames = s.strmFrames := rfl
@[simp] theorem setOvfSeen_totFrames (s : State) : (setOvfSeen s).totFrames = s.totFrames := rfl
@[simp] theorem setOvfSeen_totPulses (s : State) : (setOvfSeen s).totPulses = s.totPulses := rfl
@[simp] theorem setOvfSeen_illSeen (s : State) : (setOvfSeen s).illSeen = s.illSeen := rfl
@[simp] theorem setOvfSeen_ovfSeen (s : State) : (setOvfSeen s).ovfSeen = true := rfl
@[simp] theorem setOvfSeen_pending (s : State) : (setOvfSeen s).pending = s.pending := rfl
@[simp] theorem setOvfSeen_outq (s : State) : (setOvfSeen s).outq = s.outq := rfl
@[simp] theorem setOvfSeen_params (s : State) : (setOvfSeen s).params = s.params := rfl
@[simp] theorem setOvfSeen_script (s : State) : (setOvfSeen s).script = s.script := rfl
@[simp] theorem setOvfSeen_taken (s : State) : (setOvfSeen s).taken = s.taken := rfl

/-! `emit` -/

@[simp] theorem emit_strmActive (rs : List Record) (s : State) : (emit rs s).strmActive = s.strmActive := rfl
@[simp] theorem emit_curPulses (rs : List Record) (s : State) : (emit rs s).curPulses = s.curPulses := rfl
@[simp] theorem emit_fbuf (rs : List Record) (s : State) : (emit rs s).fbuf = s.fbuf := rfl
@[simp] theorem emit_strmFrames (rs : List Record) (s : State) : (emit rs s).strmFrames = s.strmFrames := rfl
@[simp] theorem emit_totFrames (rs : List Record) (s : State) : (emit rs s).totFrames = s.totFrames := rfl
@[simp] theorem emit_totPulses (rs : List Record) (s : State) : (emit rs s).totPulses = s.totPulses := rfl
@[simp] theorem emit_illSeen (rs : List Record) (s : State) : (emit rs s).illSeen = s.illSeen := rfl
@[simp] theorem emit_ovfSeen (rs : List Record) (s : State) : (emit rs s).ovfSeen = s.ovfSeen := rfl
@[simp] theorem emit_pending (rs : List Record) (s : State) :
    (emit rs s).pending =
      s.pending ++ rs.map Record.word := rfl
@[simp] theorem emit_outq (rs : List Record) (s : State) : (emit rs s).outq = s.outq := rfl
@[simp] theorem emit_params (rs : List Record) (s : State) : (emit rs s).params = s.params := rfl
@[simp] theorem emit_script (rs : List Record) (s : State) : (emit rs s).script = s.script := rfl
@[simp] theorem emit_taken (rs : List Record) (s : State) : (emit rs s).taken = s.taken := rfl

/-! `acceptPulse` -/

@[simp] theorem acceptPulse_strmActive (p : Pulse) (s : State) : (acceptPulse p s).strmActive = true := rfl
@[simp] theorem acceptPulse_curPulses (p : Pulse) (s : State) :
    (acceptPulse p s).curPulses =
      satIncr s.curPulses := rfl
@[simp] theorem acceptPulse_fbuf (p : Pulse) (s : State) :
    (acceptPulse p s).fbuf =
      if s.curPulses.toNat < s.params.maxPulses then fbufWrite s.fbuf s.curPulses.toNat p else s.fbuf := rfl
@[simp] theorem acceptPulse_strmFrames (p : Pulse) (s : State) : (acceptPulse p s).strmFrames = s.strmFrames := rfl
@[simp] theorem acceptPulse_totFrames (p : Pulse) (s : State) : (acceptPulse p s).totFrames = s.totFrames := rfl
@[simp] theorem acceptPulse_totPulses (p : Pulse) (s : State) :
    (acceptPulse p s).totPulses =
      wrapIncr s.totPulses := rfl
@[simp] theorem acceptPulse_illSeen (p : Pulse) (s : State) : (acceptPulse p s).illSeen = s.illSeen := rfl
@[simp] theorem acceptPulse_ovfSeen (p : Pulse) (s : State) : (acceptPulse p s).ovfSeen = s.ovfSeen := rfl
@[simp] theorem acceptPulse_pending (p : Pulse) (s : State) : (acceptPulse p s).pending = s.pending := rfl
@[simp] theorem acceptPulse_outq (p : Pulse) (s : State) : (acceptPulse p s).outq = s.outq := rfl
@[simp] theorem acceptPulse_params (p : Pulse) (s : State) : (acceptPulse p s).params = s.params := rfl
@[simp] theorem acceptPulse_script (p : Pulse) (s : State) : (acceptPulse p s).script = s.script := rfl
@[simp] theorem acceptPulse_taken (p : Pulse) (s : State) : (acceptPulse p s).taken = s.taken := rfl

/-! `countFrame` -/

@[simp] theorem countFrame_strmActive (s : State) : (countFrame s).strmActive = s.strmActive := rfl
@[simp] theorem countFrame_curPulses (s : State) : (countFrame s).curPulses = 0 := rfl
@[simp] theorem countFrame_fbuf (s : State) : (countFrame s).fbuf = [] := rfl
@[simp] theorem countFrame_strmFrames (s : State) : (countFrame s).strmFrames = wrapIncr s.strmFrames := rfl
@[simp] theorem countFrame_totFrames (s : State) : (countFrame s).totFrames = wrapIncr s.totFrames := rfl
@[simp] theorem countFrame_totPulses (s : State) : (countFrame s).totPulses = s.totPulses := rfl
@[simp] theorem countFrame_illSeen (s : State) : (countFrame s).illSeen = s.illSeen := rfl
@[simp] theorem countFrame_ovfSeen (s : State) : (countFrame s).ovfSeen = s.ovfSeen := rfl
@[simp] theorem countFrame_pending (s : State) : (countFrame s).pending = s.pending := rfl
@[simp] theorem countFrame_outq (s : State) : (countFrame s).outq = s.outq := rfl
@[simp] theorem countFrame_params (s : State) : (countFrame s).params = s.params := rfl
@[simp] theorem countFrame_script (s : State) : (countFrame s).script = s.script := rfl
@[simp] theorem countFrame_taken (s : State) : (countFrame s).taken = s.taken := rfl

/-! `finishStream` -/

@[simp] theorem finishStream_strmActive (s : State) : (finishStream s).strmActive = false := rfl
@[simp] theorem finishStream_curPulses (s : State) : (finishStream s).curPulses = s.curPulses := rfl
@[simp] theorem finishStream_fbuf (s : State) : (finishStream s).fbuf = s.fbuf := rfl
@[simp] theorem finishStream_strmFrames (s : State) : (finishStream s).strmFrames = 0 := rfl
@[simp] theorem finishStream_totFrames (s : State) : (finishStream s).totFrames = s.totFrames := rfl
@[simp] theorem finishStream_totPulses (s : State) : (finishStream s).totPulses = s.totPulses := rfl
@[simp] theorem finishStream_illSeen (s : State) : (finishStream s).illSeen = s.illSeen := rfl
@[simp] theorem finishStream_ovfSeen (s : State) : (finishStream s).ovfSeen = s.ovfSeen := rfl
@[simp] theorem finishStream_pending (s : State) : (finishStream s).pending = s.pending := rfl
@[simp] theorem finishStream_outq (s : State) : (finishStream s).outq = s.outq := rfl
@[simp] theorem finishStream_params (s : State) : (finishStream s).params = s.params := rfl
@[simp] theorem finishStream_script (s : State) : (finishStream s).script = s.script := rfl
@[simp] theorem finishStream_taken (s : State) : (finishStream s).taken = s.taken := rfl

/-! `clearStream` -/

@[simp] theorem clearStream_strmActive (s : State) : (clearStream s).strmActive = false := rfl
@[simp] theorem clearStream_curPulses (s : State) : (clearStream s).curPulses = 0 := rfl
@[simp] theorem clearStream_fbuf (s : State) : (clearStream s).fbuf = [] := rfl
@[simp] theorem clearStream_strmFrames (s : State) : (clearStream s).strmFrames = 0 := rfl
@[simp] theorem clearStream_totFrames (s : State) : (clearStream s).totFrames = 0 := rfl
@[simp] theorem clearStream_totPulses (s : State) : (clearStream s).totPulses = 0 := rfl
@[simp] theorem clearStream_illSeen (s : State) : (clearStream s).illSeen = false := rfl
@[simp] theorem clearStream_ovfSeen (s : State) : (clearStream s).ovfSeen = false := rfl
@[simp] theorem clearStream_pending (s : State) : (clearStream s).pending = s.pending := rfl
@[simp] theorem clearStream_outq (s : State) : (clearStream s).outq = s.outq := rfl
@[simp] theorem clearStream_params (s : State) : (clearStream s).params = s.params := rfl
@[simp] theorem clearStream_script (s : State) : (clearStream s).script = s.script := rfl
@[simp] theorem clearStream_taken (s : State) : (clearStream s).taken = s.taken := rfl

/-! `resetBlock` -/

@[simp] theorem resetBlock_strmActive (s : State) : (resetBlock s).strmActive = false := rfl
@[simp] theorem resetBlock_curPulses (s : State) : (resetBlock s).curPulses = 0 := rfl
@[simp] theorem resetBlock_fbuf (s : State) : (resetBlock s).fbuf = [] := rfl
@[simp] theorem resetBlock_strmFrames (s : State) : (resetBlock s).strmFrames = 0 := rfl
@[simp] theorem resetBlock_totFrames (s : State) : (resetBlock s).totFrames = 0 := rfl
@[simp] theorem resetBlock_totPulses (s : State) : (resetBlock s).totPulses = 0 := rfl
@[simp] theorem resetBlock_illSeen (s : State) : (resetBlock s).illSeen = false := rfl
@[simp] theorem resetBlock_ovfSeen (s : State) : (resetBlock s).ovfSeen = false := rfl
@[simp] theorem resetBlock_pending (s : State) : (resetBlock s).pending = [] := rfl
@[simp] theorem resetBlock_outq (s : State) : (resetBlock s).outq = [] := rfl
@[simp] theorem resetBlock_params (s : State) : (resetBlock s).params = s.params := rfl
@[simp] theorem resetBlock_script (s : State) : (resetBlock s).script = s.script := rfl
@[simp] theorem resetBlock_taken (s : State) : (resetBlock s).taken = s.taken := rfl

end Sys2Proof.Machine
end

