-- ==== Sys2Proof/Laws/Ops.lean ====
section
/-! SUPPORT. What each shared operation and each command can do: one lemma each, so that proofs about runs do not unfold
the operation. -/

namespace Sys2Proof.Machine

@[simp] theorem andThen_next (s : State) (f : State → Result) : andThen (.next s) f = f s := rfl
@[simp] theorem andThen_fault (e : Fault) (f : State → Result) : andThen (.fault e) f = .fault e := rfl
@[simp] theorem andThen_refused (r : Refusal) (f : State → Result) : andThen (.refused r) f = .refused r := rfl

theorem andThen_eq_next {o : Result} {f : State → Result} {t : State} (h : andThen o f = .next t) :
    ∃ s, o = .next s ∧ f s = .next t := by
  cases o with
  | next s => exact ⟨s, rfl, h⟩
  | fault e => simp at h
  | refused r => simp at h

theorem emit_emit (rs qs : List Record) (s : State) : emit qs (emit rs s) = emit (rs ++ qs) s := by
  simp [emit]

theorem satIncr_toNat (c : BitVec 32) : (satIncr c).toNat = min (c.toNat + 1) (2 ^ 32 - 1) := by
  simp only [satIncr, satN, BitVec.toNat_ofNat]
  omega

theorem wrapIncr_eq_add (c : BitVec 32) : wrapIncr c = c + 1 := by
  apply BitVec.eq_of_toNat_eq
  simp [wrapIncr]

theorem wrapIncr_toNat (c : BitVec 32) : (wrapIncr c).toNat = (c.toNat + 1) % 2 ^ 32 := by
  simp [wrapIncr]

theorem fbufWrite_at_end {buf : List Pulse} {i : Nat} (h : buf.length = i) (p : Pulse) :
    fbufWrite buf i p = buf ++ [p] := by
  simp [fbufWrite, ← h]

theorem fbufRead_eq_none {s : State} {i : Nat} (h : min s.curPulses.toNat s.params.maxPulses ≤ i) :
    fbufRead s i = none := by
  simp only [fbufRead]
  rw [if_neg (by omega)]

theorem fbufRead_of_lt {s : State} {i : Nat} (h : i < min s.curPulses.toNat s.params.maxPulses) :
    fbufRead s i = s.fbuf[i]? := by
  simp only [fbufRead]
  rw [if_pos h]

theorem fbufReadFrom_buffer {s : State} (hb : s.fbuf.length = min s.curPulses.toNat s.params.maxPulses)
    (i count : Nat) (h : i + count = s.fbuf.length) : fbufReadFrom s i count = .ok (s.fbuf.drop i) := by
  induction count generalizing i with
  | zero => simp [fbufReadFrom, List.drop_eq_nil_of_le (by omega : s.fbuf.length ≤ i)]
  | succ count ih =>
    have hi : i < s.fbuf.length := by omega
    rw [fbufReadFrom, fbufRead_of_lt (by omega), List.getElem?_eq_getElem hi, ih (i + 1) (by omega),
      List.drop_eq_getElem_cons hi]

theorem closeFrame_cases {s t : State} (h : closeFrame s = .next t) :
    ∃ leader, fbufRead s 0 = some leader ∧
      ((s.params.maxPulses < s.curPulses.toNat ∧
          t = countFrame (emit (overflowRecord (frameIdx s) leader s.curPulses.toNat) (setOvfSeen s))) ∨
        (s.curPulses.toNat ≤ s.params.maxPulses ∧ ∃ rest, fbufReadFrom s 1 (s.curPulses.toNat - 1) = .ok rest ∧
          t = countFrame (emit (fittingRecord (frameIdx s) leader rest) s))) := by
  unfold closeFrame at h
  cases hr : fbufRead s 0 with
  | none => simp [hr] at h
  | some leader =>
    refine ⟨leader, rfl, ?_⟩
    simp only [hr] at h
    split at h
    · rename_i hm
      exact .inl ⟨hm, by simpa using h.symm⟩
    · rename_i hm
      split at h
      · simp at h
      · rename_i rest hrest
        exact .inr ⟨by omega, rest, hrest, by simpa using h.symm⟩

theorem closeFrame_fitting {s : State} {leader : Pulse} {rest : List Pulse} (hf : s.fbuf = leader :: rest)
    (hn : s.curPulses.toNat = rest.length + 1) (hm : s.curPulses.toNat ≤ s.params.maxPulses) :
    closeFrame s = .next (countFrame (emit (fittingRecord (frameIdx s) leader rest) s)) := by
  have hb : s.fbuf.length = min s.curPulses.toNat s.params.maxPulses := by rw [hf, List.length_cons]; omega
  have h0 : fbufRead s 0 = some leader := by rw [fbufRead_of_lt (by omega), hf]; rfl
  have h1 := fbufReadFrom_buffer hb 1 (s.curPulses.toNat - 1) (by omega)
  rw [closeFrame, h0]
  simp only [if_neg (by omega : ¬ s.params.maxPulses < s.curPulses.toNat), h1]
  simp [hf]

theorem closeFrame_overflow {s : State} {leader : Pulse} {rest : List Pulse} (hf : s.fbuf = leader :: rest)
    (hp : 0 < s.params.maxPulses) (hm : s.params.maxPulses < s.curPulses.toNat) :
    closeFrame s =
      .next (countFrame (emit (overflowRecord (frameIdx s) leader s.curPulses.toNat) (setOvfSeen s))) := by
  have h0 : fbufRead s 0 = some leader := by rw [fbufRead_of_lt (by omega), hf]; rfl
  rw [closeFrame, h0]
  simp only [if_pos hm]

theorem moveWord_cases (s : State) :
    moveWord s = s ∨
      ∃ w ws, s.pending = w :: ws ∧ s.outq.length < s.params.outDepth ∧
        moveWord s = { s with pending := ws, outq := s.outq ++ [w] } := by
  unfold moveWord
  split
  · exact .inl rfl
  · rename_i w ws hp
    split
    · rename_i hq
      exact .inr ⟨w, ws, hp, hq, rfl⟩
    · exact .inl rfl

theorem moveWord_of_room {s : State} {w : Word72} {ws : List Word72} (hp : s.pending = w :: ws)
    (hq : s.outq.length < s.params.outDepth) : moveWord s = { s with pending := ws, outq := s.outq ++ [w] } := by
  simp [moveWord, hp, hq]

theorem moveWord_of_nothing_pending {s : State} (hp : s.pending = []) : moveWord s = s := by
  simp [moveWord, hp]

theorem moveWord_of_full {s : State} (hq : s.params.outDepth ≤ s.outq.length) : moveWord s = s := by
  obtain h | ⟨w, ws, _, hr, _⟩ := moveWord_cases s
  · exact h
  · omega

theorem ready_iff (s : State) : ready s = true ↔ s.pending = [] := by
  simp [ready]

theorem execPulse_cases {mark space : Duration} {s t : State} (h : execPulse mark space s = .next t) :
    (isGap ⟨mark, space⟩ = false ∧ t = acceptPulse ⟨mark, space⟩ s) ∨
      (isGap ⟨mark, space⟩ = true ∧ closeFrame (acceptPulse ⟨mark, space⟩ s) = .next t) := by
  unfold execPulse at h
  split at h
  · rename_i hg
    exact .inr ⟨hg, h⟩
  · rename_i hg
    exact .inl ⟨by simpa using hg, by simpa using h.symm⟩

theorem execEnd_cases {s t : State} (h : execEnd s = .next t) :
    (s.strmActive = false ∧ t = finishStream (emit [.streamEnd 0 .inputIsEmpty] s)) ∨
      (s.strmActive = true ∧ s.curPulses = 0 ∧ t = finishStream (emit [.streamEnd s.strmFrames .ok] s)) ∨
      (s.strmActive = true ∧ s.curPulses ≠ 0 ∧
        ∃ u, closeFrame s = .next u ∧ t = finishStream (emit [.streamEnd u.strmFrames .ok] u)) := by
  unfold execEnd at h
  split at h
  · rename_i ha
    obtain ⟨u, hu, hn⟩ := andThen_eq_next h
    have ht : t = finishStream (emit [.streamEnd u.strmFrames .ok] u) := by simpa using hn.symm
    unfold closeOpenFrame at hu
    split at hu
    · rename_i hc
      have hs : s = u := by simpa using hu
      subst hs
      exact .inr (.inl ⟨ha, hc, ht⟩)
    · rename_i hc
      exact .inr (.inr ⟨ha, hc, u, hu, ht⟩)
  · rename_i ha
    exact .inl ⟨by simpa using ha, by simpa using h.symm⟩

theorem execReadReg_cases {addr : RegAddr} {s t : State} (h : execReadReg addr s = .next t) :
    (∃ v, reg s addr = some v ∧ t = emit [.regValue addr v] s) ∨
      (reg s addr = none ∧ t = emit [.cmdError 0x04 .badRegAddr addr] (setIllSeen s)) := by
  unfold execReadReg at h
  split at h
  · rename_i v hv
    exact .inl ⟨v, hv, by simpa using h.symm⟩
  · rename_i hv
    exact .inr ⟨hv, by simpa [reject, errorAddr, Instr.opcode] using h.symm⟩

theorem rejectWord_eq (w : Word72) (kind : CmdErrorKind) (s : State) :
    rejectWord w kind s =
      .next (emit [.cmdError (opField w) kind (errorAddr kind (addrField w))] (setIllSeen s)) := rfl

theorem step_cases {s t : State} (h : step s = .next t) :
    (s.script = [] ∧ t = moveWord s) ∨
      (∃ rest, s.script = .wait :: rest ∧ t = moveWord { s with script := rest }) ∨
      (∃ rest, s.script = .reset :: rest ∧ t = resetBlock { s with script := rest }) ∨
      (∃ rest w ws, s.script = .take :: rest ∧ s.outq = w :: ws ∧
        t = { s with outq := ws, taken := s.taken ++ [w], script := rest }) ∨
      (∃ rest, s.script = .take :: rest ∧ s.outq = [] ∧ s.pending = [] ∧ t = { s with script := rest }) ∨
      (∃ rest, s.script = .take :: rest ∧ s.outq = [] ∧ s.pending ≠ [] ∧ t = moveWord s) ∨
      (∃ w rest, s.script = .command w :: rest ∧ s.pending = [] ∧ runCommand w { s with script := rest } = .next t) ∨
      (∃ w rest, s.script = .command w :: rest ∧ s.pending ≠ [] ∧ t = moveWord s) := by
  unfold step at h
  split at h
  · rename_i hs
    exact .inl ⟨hs, by simpa using h.symm⟩
  · rename_i rest hs
    exact .inr (.inl ⟨rest, hs, by simpa using h.symm⟩)
  · rename_i rest hs
    exact .inr (.inr (.inl ⟨rest, hs, by simpa using h.symm⟩))
  · rename_i rest hs
    split at h
    · rename_i w ws hq
      exact .inr (.inr (.inr (.inl ⟨rest, w, ws, hs, hq, by simpa using h.symm⟩)))
    · rename_i hq
      split at h
      · rename_i hr
        exact .inr (.inr (.inr (.inr (.inl ⟨rest, hs, hq, (ready_iff s).mp hr, by simpa using h.symm⟩))))
      · rename_i hr
        exact .inr (.inr (.inr (.inr (.inr (.inl
          ⟨rest, hs, hq, fun hp => hr ((ready_iff s).mpr hp), by simpa using h.symm⟩)))))
  · rename_i w rest hs
    split at h
    · rename_i hr
      exact .inr (.inr (.inr (.inr (.inr (.inr (.inl ⟨w, rest, hs, (ready_iff s).mp hr, h⟩))))))
    · rename_i hr
      exact .inr (.inr (.inr (.inr (.inr (.inr (.inr
        ⟨w, rest, hs, fun hp => hr ((ready_iff s).mpr hp), by simpa using h.symm⟩))))))

theorem runCommand_of_ok {w : Word72} {i : Instr} (h : decode w = .ok i) (s : State) : runCommand w s = exec i s := by
  simp [runCommand, h]

theorem runCommand_of_error {w : Word72} {k : CmdErrorKind} (h : decode w = .error k) (s : State) :
    runCommand w s = rejectWord w k s := by
  simp [runCommand, h]

end Sys2Proof.Machine
end

