-- ==== Sys2Proof/Laws/Invariant.lean ====
section
/-! SUPPORT. What storing a pulse and closing a frame do from a state that meets the invariant. -/

namespace Sys2Proof.Machine

/-- In the invariant, PULSE appends its pulse to the stored ones where there is room, and stores nothing else. -/
theorem acceptPulse_fbuf_of_inv {s : State} (h : s.Inv) (p : Pulse) :
    (acceptPulse p s).fbuf = if s.curPulses.toNat < s.params.maxPulses then s.fbuf ++ [p] else s.fbuf := by
  have hb := h.buffer
  simp only [acceptPulse_fbuf]
  split
  · rw [fbufWrite_at_end (by omega)]
  · rfl

theorem acceptPulse_keeps_inv {s : State} (h : s.Inv) (p : Pulse) : (acceptPulse p s).Inv := by
  have hb := h.buffer
  have hw := h.params
  have hn := satIncr_toNat s.curPulses
  refine ⟨hw, by simp, ?_, h.fifo⟩
  rw [acceptPulse_fbuf_of_inv h, acceptPulse_curPulses, acceptPulse_params]
  split
  · simp only [List.length_append, List.length_singleton]
    omega
  · omega

/-- In the invariant, closing an open frame succeeds: with the whole record of its stored pulses where the frame fits,
and with the header of FRAME_OVERFLOW where it does not (spec/42_frame_decoder.md R180, R181). -/
theorem closeFrame_of_inv {s : State} (h : s.Inv) (hc : 0 < s.curPulses.toNat) :
    ∃ leader rest, s.fbuf = leader :: rest ∧
      ((s.curPulses.toNat ≤ s.params.maxPulses ∧
          closeFrame s =
            .next (countFrame (emit (frameRecord s.params.maxPulses (frameIdx s) s.fbuf) s))) ∨
        (s.params.maxPulses < s.curPulses.toNat ∧
          closeFrame s =
            .next (countFrame (emit (overflowRecord (frameIdx s) leader s.curPulses.toNat) (setOvfSeen s))))) := by
  obtain ⟨hw, -, hb, -⟩ := h
  cases hf : s.fbuf with
  | nil =>
    rw [hf, List.length_nil] at hb
    omega
  | cons leader rest =>
    rw [hf, List.length_cons] at hb
    refine ⟨leader, rest, rfl, ?_⟩
    by_cases hm : s.curPulses.toNat ≤ s.params.maxPulses
    · refine .inl ⟨hm, ?_⟩
      rw [closeFrame_fitting hf (by omega) hm, frameRecord, List.length_cons, if_neg (by omega)]
    · exact .inr ⟨by omega, closeFrame_overflow hf (by omega) (by omega)⟩

end Sys2Proof.Machine
end

