-- ==== Sys2Proof/Laws/PerInstr.lean ====
section
/-! SUPPORT. Statements about every instruction as syntax, one lemma per constructor. -/

namespace Sys2Proof.Laws.EncodedWord

/-- The encoded word of an instruction carries its opcode and fits a row of the opcode table (spec/30_encoding.md
R71). -/
def Statement (i : Instr) : Prop :=
  opField (encode i) = i.opcode ∧ ∃ r ∈ opcodeRows, r.fits (encode i) = true

theorem nop : Statement .nop := by
  refine ⟨opField_commandWord _ _ _, ⟨"NOP", 0x000000000000000000, 0xFFFFFFFFFFFFFFFFFF⟩, by decide, by decide⟩

theorem pulse (mark space : Duration) : Statement (.pulse mark space) := by
  refine ⟨opField_commandWord _ _ _, ⟨"PULSE", 0x010000000000000000, 0xFF0000000000000000⟩, by decide, ?_⟩
  have hm : (0xFF0000000000000000 : Word72) = commandWord 0xFF 0 0 := by decide
  have hp : (0x010000000000000000 : Word72) = commandWord 0x01 0 0 := by decide
  simp only [OpcodeRow.fits, encode, Instr.opcode, beq_iff_eq]
  rw [hm, hp]
  simp only [commandWord]
  rw [BitVec.and_append, BitVec.and_append]
  simp

theorem endStream : Statement .endStream := by
  refine ⟨opField_commandWord _ _ _, ⟨"END", 0x020000000000000000, 0xFFFFFFFFFFFFFFFFFF⟩, by decide, by decide⟩

theorem clear : Statement .clear := by
  refine ⟨opField_commandWord _ _ _, ⟨"CLEAR", 0x030000000000000000, 0xFFFFFFFFFFFFFFFFFF⟩, by decide, by decide⟩

theorem readReg (addr : RegAddr) : Statement (.readReg addr) := by
  refine ⟨opField_commandWord _ _ _, ⟨"READ_REG", 0x040000000000000000, 0xFFFFFFFFFFFFFFFF00⟩, by decide, ?_⟩
  revert addr
  decide

end Sys2Proof.Laws.EncodedWord
end

