-- ==== Sys2Proof/Laws/Run.lean ====
section
/-! SUPPORT. Runs of the machine and of command sequences, taken apart into their first step. -/

namespace Sys2Proof.Machine

@[simp] theorem commandWords_nil : commandWords [] = [] := rfl
@[simp] theorem commandWords_command (w : Word72) (es : List HostEvent) :
    commandWords (.command w :: es) = w :: commandWords es := rfl
@[simp] theorem commandWords_take (es : List HostEvent) : commandWords (.take :: es) = commandWords es := rfl
@[simp] theorem commandWords_reset (es : List HostEvent) : commandWords (.reset :: es) = commandWords es := rfl
@[simp] theorem commandWords_wait (es : List HostEvent) : commandWords (.wait :: es) = commandWords es := rfl

/-- `pulsesOf` takes the pulse of a PULSE word, and nothing of any other word. -/
theorem pulsesOf_pulse {w : Word72} {mark space : Duration} (h : decode w = .ok (.pulse mark space)) (ws : List Word72) :
    pulsesOf (w :: ws) = ⟨mark, space⟩ :: pulsesOf ws := by
  simp [pulsesOf, h]

theorem pulsesOf_not_pulse {w : Word72} (h : ∀ mark space, decode w ≠ .ok (.pulse mark space)) (ws : List Word72) :
    pulsesOf (w :: ws) = pulsesOf ws := by
  rw [pulsesOf]
  split
  · rename_i mark space hd
    exact absurd hd (h mark space)
  · rfl

theorem run_zero (s : State) : Host.Core.run Sys2Proof.core 0 s = .next s := by simp only [Host.Core.run]

theorem run_succ_of_next {s t : State} (h : step s = .next t) (k : Nat) :
    Host.Core.run Sys2Proof.core (k + 1) s = Host.Core.run Sys2Proof.core k t := by
  have h' : Sys2Proof.core.step s = .next t := h
  simp only [Host.Core.run, h']

theorem run_succ_eq_next {k : Nat} {s t : State} (h : Host.Core.run Sys2Proof.core (k + 1) s = .next t) :
    ∃ u : State, step s = .next u ∧ Host.Core.run Sys2Proof.core k u = .next t := by
  simp only [Host.Core.run] at h
  split at h
  · rename_i u hu
    exact ⟨u, hu, h⟩
  · simp at h
  · simp at h

theorem runWords_append (ws vs : List Word72) (s : State) :
    runWords (ws ++ vs) s = andThen (runWords ws s) (runWords vs) := by
  induction ws generalizing s with
  | nil => rfl
  | cons w ws ih =>
    simp only [runWords, List.cons_append]
    cases runCommand w s <;> simp [ih]

end Sys2Proof.Machine
end

