-- ==== Sys2Proof/Tests/Slice0.lean ====
section
/-! SUPPORT. Tests. Expected words and values are those of spec/95_test_vectors.md, or written out by hand from the rule
named. The witnesses show that the hypotheses of each statement are met together, each clause at a boundary value. -/

namespace Sys2Proof.Tests

open Sys2Proof Sys2Proof.Machine

/-! ## Helpers -/

/-- The next state of a result, if it is one. -/
def after (o : Result) : Option State :=
  match o with
  | .next s => some s
  | .fault _ => none
  | .refused _ => none

/-- The state after reset of a block of capacity `max` whose FIFO holds one word. -/
def idle (max : Nat) : State := State.resetOf { maxPulses := max, outDepth := 1, blockId := 0 }

/-- A block of capacity 2 with an open frame of `n` pulses, of which `buf` are stored. -/
def openFrame (n : BitVec 32) (buf : List Pulse) : State :=
  { idle 2 with strmActive := true, curPulses := n, totPulses := n, fbuf := buf }

def necLeader : Pulse := ⟨8992, 4496⟩
def repeatLeader : Pulse := ⟨8992, 2248⟩
def aehaLeader : Pulse := ⟨3520, 1760⟩
def sircLeader : Pulse := ⟨2400, 600⟩
def otherLeader : Pulse := ⟨1000, 1000⟩

/-- One open NEC pulse, one short of the capacity. -/
def oneOpen : State := openFrame 1 [necLeader]

/-- As many pulses as the capacity. -/
def fullFrame : State := openFrame 2 [necLeader, ⟨562, 562⟩]

/-- One pulse more than the capacity. -/
def overFrame : State := openFrame 3 [necLeader, ⟨562, 562⟩]

/-- Two words pending behind a full FIFO. -/
def waiting (es : List HostEvent) : State :=
  { idle 2 with
    pending := [0x08_00000001_00000000, 0x08_00000002_00000000]
    outq := [0x08_00000000_00000001]
    script := es }

/-- A state no run reaches: a frame is open and no entry holds a value. -/
def brokenFrame : State := openFrame 1 []

/-! ## Well-formedness: each check refuses an ill-formed term -/

theorem test_params_in_range : ({ maxPulses := 2, outDepth := 1, blockId := 0 } : Params).wf := by decide
theorem test_params_one_pulse_refused : ¬ ({ maxPulses := 1, outDepth := 1, blockId := 0 } : Params).wf := by decide
theorem test_params_too_many_pulses_refused : ¬ ({ maxPulses := 65536, outDepth := 1, blockId := 0 } : Params).wf := by
  decide
theorem test_params_no_fifo_refused : ¬ ({ maxPulses := 2, outDepth := 0, blockId := 0 } : Params).wf := by decide
theorem test_source_widest_operands : (Source.pulse 0xFFFFFFFF 0xFFFFFFFF).wf = true ∧ (Source.readReg 0xFF).wf = true := by
  decide
theorem test_source_wide_mark_refused : (Source.pulse 0x100000000 0).wf = false := by decide
theorem test_source_wide_space_refused : (Source.pulse 0 0x100000000).wf = false := by decide
theorem test_source_wide_address_refused : (Source.readReg 0x100).wf = false := by decide
theorem test_source_wide_word_refused : (Source.raw 0x1_00_00000000_00000000).wf = false := by decide

/-! ## Decoding: words written out from spec/30_encoding.md R71 and spec/95_test_vectors.md 2.8 -/

theorem test_decode_nop : decode 0x00_00000000_00000000 = .ok .nop := by decide
theorem test_decode_pulse : decode 0x01_00000232_00001F40 = .ok (.pulse 562 8000) := by decide
theorem test_decode_pulse_widest : decode 0x01_FFFFFFFF_00000001 = .ok (.pulse 0xFFFFFFFF 1) := by decide
theorem test_decode_end : decode 0x02_00000000_00000000 = .ok .endStream := by decide
theorem test_decode_clear : decode 0x03_00000000_00000000 = .ok .clear := by decide
theorem test_decode_read_reg : decode 0x04_00000000_000000FF = .ok (.readReg 0xFF) := by decide
theorem test_decode_rejects_opcodes :
    decode 0x05_00000000_00000000 = .error .illegalOpcode ∧ decode 0xFF_00000001_00000002 = .error .illegalOpcode := by
  decide
theorem test_decode_rejects_reserved_bits :
    decode 0x00_00000001_00000000 = .error .reservedNonzero ∧ decode 0x02_00000001_00000000 = .error .reservedNonzero ∧
      decode 0x03_00000000_80000000 = .error .reservedNonzero ∧ decode 0x04_00000000_00000100 = .error .reservedNonzero ∧
      decode 0x04_00000001_00000002 = .error .reservedNonzero := by
  decide
theorem test_encode_words :
    encode .nop = 0x00_00000000_00000000 ∧ encode (.pulse 562 8000) = 0x01_00000232_00001F40 ∧
      encode .endStream = 0x02_00000000_00000000 ∧ encode .clear = 0x03_00000000_00000000 ∧
      encode (.readReg 0x1E) = 0x04_00000000_0000001E := by
  decide
theorem test_rows_are_disjoint :
    opcodeRows.Pairwise fun r q => (r.pattern &&& q.mask) ≠ (q.pattern &&& r.mask) := by
  decide
theorem test_table_word_runs_first :
    step (State.reset.withFetchWord 72 0x01_00000232_00001F40) = exec (.pulse 562 8000) State.reset := rfl

/-! ## Commands (spec/95_test_vectors.md 2.4 to 2.8) -/

theorem test_nop : after (exec .nop oneOpen) = some oneOpen := by decide
theorem test_pulse_opens_a_frame :
    (after (exec (.pulse 0 0) (idle 2))).map (fun t => (t.curPulses, t.strmActive, t.totPulses, t.pending)) =
      some (1, true, 1, []) := by
  decide
theorem test_pulse_gap_closes_a_frame :
    (after (exec (.pulse 8992 8000) (idle 2))).map (·.pending) =
      some [0x01_00000200_00010000, 0x03_00002320_00001F40] := by
  decide
theorem test_pulse_overflow :
    (after (exec (.pulse 1200 8000) { openFrame 2 [sircLeader, ⟨600, 600⟩] with strmFrames := 1 })).map
        (fun t => (t.pending, t.ovfSeen)) = some ([0x01_00013400_00030000], true) := by
  decide
theorem test_end_closes_the_open_frame :
    (after (exec .endStream oneOpen)).map (·.pending) = some [0x01_00002310_00010000, 0x08_00000001_00000000] := by
  decide
theorem test_end_of_empty_stream :
    (after (exec .endStream (idle 2))).map (·.pending) = some [0x08_00000000_00000001] := by
  decide
theorem test_clear_drops_the_open_frame : after (exec .clear oneOpen) = some (idle 2) := by decide
theorem test_clear_keeps_the_output :
    (after (exec .clear (waiting []))).map (fun t => (t.pending.length, t.outq.length)) = some (2, 1) := by
  decide
theorem test_read_reg_status :
    (after (exec (.readReg 0x02) { oneOpen with illSeen := true })).map (·.pending) =
      some [0x09_00000002_00000007] := by
  decide
theorem test_read_reg_caps :
    (after (exec (.readReg 0x01) (idle 1024))).map (·.pending) = some [0x09_00000001_00010400] := by
  decide
theorem test_read_reg_rejected :
    (after (exec (.readReg 0x1F) (idle 2))).map (fun t => (t.pending, t.illSeen)) =
      some ([0x0A_00000000_001F0304], true) := by
  decide
theorem test_illegal_word_rejected :
    (after (runCommand 0x7F_00000000_00000000 (idle 2))).map (·.pending) = some [0x0A_00000000_0000017F] := by
  decide
theorem test_valueless_entry_faults : closeFrame brokenFrame = .fault (.fbufNoValue 0) := rfl

/-! ## Pipeline (spec/95_test_vectors.md 2.1 to 2.7) -/

theorem test_classify_edges :
    classify ⟨3220, 1460⟩ = .aeha ∧ classify ⟨3820, 2060⟩ = .aeha ∧ classify ⟨3219, 1760⟩ = .unknown ∧
      classify ⟨8692, 4196⟩ = .nec ∧ classify ⟨9292, 4796⟩ = .nec ∧ classify ⟨9293, 4496⟩ = .unknown ∧
      classify ⟨8692, 1948⟩ = .necRepeat ∧ classify ⟨9292, 2548⟩ = .necRepeat ∧ classify ⟨8992, 2549⟩ = .unknown ∧
      classify ⟨2100, 300⟩ = .sirc ∧ classify ⟨2700, 900⟩ = .sirc ∧ classify ⟨2400, 901⟩ = .unknown := by
  decide
theorem test_pdm_edges :
    pdm ⟨562, 1123⟩ = false ∧ pdm ⟨562, 1124⟩ = true ∧ pdm ⟨4001, 8000⟩ = false ∧
      pdm ⟨0x7FFFFFFF, 0xFFFFFFFE⟩ = true ∧ pdm ⟨0x80000000, 0xFFFFFFFF⟩ = false := by
  decide
theorem test_pwm_edges :
    pwm ⟨1100, 0⟩ = true ∧ pwm ⟨1300, 0xFFFFFFFF⟩ = true ∧ pwm ⟨1099, 0⟩ = false ∧ pwm ⟨1301, 0⟩ = false := by
  decide
theorem test_aeha_decode :
    (decodeAeha [false, true, false, false, false, false, false, false, true, true]).words.map Record.word =
      [0x04_00000000_01010002, 0x05_00000000_00000102] := by
  decide
theorem test_aeha_decode_two_octet_words :
    (decodeAeha (List.replicate 66 true)).words.map Record.word =
      [0x04_00000000_01010009, 0x05_FFFFFFFF_FFFFFFFF, 0x05_00000000_00000001] := by
  decide
theorem test_nec_decode :
    ((decodeNec ([false, false, false, false, true, false, false, false] ++
      [true, true, true, true, false, true, true, true] ++ [true, false, true, false, false, false, false, false] ++
      [false, true, false, true, true, true, true, true] ++ [true])).words.map Record.word) =
      [0x06_00000001_FA05EF10] := by
  decide
theorem test_sirc_decode :
    (decodeSirc [true, false, true, false, true, false, false, true, false, false, false, false]).words.map Record.word =
      [0x07_00000000_00000115] := by
  decide
theorem test_sirc20_decode :
    (decodeSirc [false, true, false, true, true, false, true, true, true, false, true, false, false, false, false, true,
      true, true, false, true]).words.map Record.word = [0x07_00000000_02B80B5A] := by
  decide
theorem test_bits_words :
    (bitsWords (List.replicate 65 true)).map Record.word = [0x02_FFFFFFFF_FFFFFFFF, 0x02_00000000_00000001] := by
  decide
theorem test_sirc_frame_record :
    (frameRecord 13 0 (sircLeader :: ([true, false, true, false, true, false, false, true, false, false, false, false].map
      fun b => if b then ⟨1200, 600⟩ else ⟨600, 600⟩))).map Record.word =
      [0x01_00003000_000D000C, 0x02_00000000_00000095, 0x07_00000000_00000115] := by
  decide
theorem test_result_decoder_refuses :
    legalWord 0x00_00000000_00000000 = false ∧ legalWord 0x0B_00000000_00000000 = false ∧
      legalWord 0x01_00005000_00010000 = false ∧ legalWord 0x07_00000000_03000000 = false ∧
      legalWord 0x0A_00000000_00000005 = false ∧ legalWord 0x04_00000000_02000000 = false := by
  decide

/-! ## Assembler (spec/30_encoding.md R74, R75) -/

theorem test_assemble :
    assemble "LDR_NEC ; leader\n\n  PULSE 562, 0x1F40\n.cmd 7F_00000000_00000000\nNEC0.G".toList =
      .ok [0x01_00002320_00001190, 0x01_00000232_00001F40, 0x7F_00000000_00000000, 0x01_00000232_00001F40] := by
  decide
theorem test_assemble_refuses :
    assemble "READ_REG 0x100".toList = .error (1, .operandTooWide) ∧
      assemble "END\nPULSE 1".toList = .error (2, .operandCount) ∧
      assemble "HALT".toList = .error (1, .unknownMnemonic) := by
  decide

/-! ## The invariant holds of the witnesses -/

theorem idle_inv : (idle 2).Inv := ⟨by decide, by decide, by decide, by decide⟩
theorem oneOpen_inv : oneOpen.Inv := ⟨by decide, by decide, by decide, by decide⟩
theorem fullFrame_inv : fullFrame.Inv := ⟨by decide, by decide, by decide, by decide⟩
theorem overFrame_inv : overFrame.Inv := ⟨by decide, by decide, by decide, by decide⟩
theorem waiting_inv (es : List HostEvent) : (waiting es).Inv :=
  ⟨idle_inv.params, fun _ => ⟨rfl, rfl⟩, rfl, Nat.le_refl 1⟩

/-! ## Witnesses, in the order of the statements -/

theorem witness_DecodeAcceptsExactlyTheTableRows :
    ∃ r ∈ opcodeRows, ∃ q ∈ opcodeRows, r.fits 0x04_00000000_000000FF = true ∧ q.fits 0x04_00000000_000000FF = true := by
  decide
theorem witness_ResetEventDropsUntakenWords : ∃ rest, (waiting [.reset, .take]).script = .reset :: rest := ⟨_, rfl⟩
theorem witness_ResetStateMeetsTheInvariant :
    ({ maxPulses := 65535, outDepth := 1, blockId := 0 } : Params).wf := ⟨by decide, Nat.le_refl _, by decide⟩
theorem witness_StepKeepsTheInvariant :
    ∃ t, (waiting [.take]).Inv ∧ step (waiting [.take]) = .next t := ⟨_, waiting_inv _, rfl⟩
theorem witness_StepKeepsStreamFramesWithinTotal :
    ∃ s t : State, s.strmFrames.toNat ≤ s.totFrames.toNat ∧ s.totFrames.toNat < 2 ^ 32 - 1 ∧ step s = .next t :=
  ⟨{ idle 2 with strmFrames := 0xFFFFFFFE, totFrames := 0xFFFFFFFE }, _, by decide, by decide, rfl⟩
theorem witness_RunsNeverStop : overFrame.Inv := overFrame_inv
theorem witness_StepEmitsOnlyLegalWords :
    ∃ t, (waiting [.take]).wordsLegal ∧ step (waiting [.take]) = .next t :=
  ⟨_, List.forall_mem_cons.2 ⟨by decide, List.forall_mem_cons.2 ⟨by decide, List.forall_mem_cons.2 ⟨by decide,
    List.forall_mem_nil _⟩⟩⟩, rfl⟩
theorem witness_ValuelessEntriesAreNeverRead :
    min overFrame.curPulses.toNat overFrame.params.maxPulses ≤ 2 ∧ (∃ t, closeFrame fullFrame = .next t) ∧
      (∃ t, exec .endStream overFrame = .next t) ∧ ∃ e, exec .endStream brokenFrame = .fault e :=
  ⟨by decide, ⟨_, rfl⟩, ⟨_, rfl⟩, ⟨_, rfl⟩⟩
theorem witness_StickyFlagsChangeOnlyAsStated :
    (∃ t, runCommand (encode .endStream) { overFrame with illSeen := true, ovfSeen := true } = .next t ∧
        decode (encode .endStream) ≠ .ok .clear) ∧
      (∃ t, runCommand (encode (.readReg 0x07)) (idle 2) = .next t ∧ t.illSeen = true) ∧
      (∃ t, runCommand 0x05_00000000_00000000 (idle 2) = .next t ∧ t.illSeen = true) ∧
      (∃ t, runCommand (encode .endStream) overFrame = .next t ∧ t.ovfSeen = true) ∧
      (∃ t, runCommand (encode (.pulse 0 8000)) fullFrame = .next t ∧ t.ovfSeen = true) ∧
      ∃ t, runCommand (encode .clear) overFrame = .next t ∧ decode (encode .clear) = .ok .clear :=
  ⟨⟨_, rfl, by decide⟩, ⟨_, rfl, rfl⟩, ⟨_, rfl, rfl⟩, ⟨_, rfl, rfl⟩, ⟨_, rfl, rfl⟩, ⟨_, rfl, by decide⟩⟩
theorem witness_CountersSaturateWrapAndReturnToZero :
    (∃ t, exec (.pulse 0 7999) { overFrame with curPulses := 0xFFFFFFFF, totPulses := 0xFFFFFFFF } = .next t) ∧
      (∃ t, closeFrame { fullFrame with strmFrames := 0xFFFFFFFF, totFrames := 0xFFFFFFFF } = .next t) ∧
      (∃ t, fullFrame.Inv ∧ exec .endStream fullFrame = .next t) ∧ ∃ t, exec .clear overFrame = .next t :=
  ⟨⟨_, rfl⟩, ⟨_, rfl⟩, ⟨_, fullFrame_inv, rfl⟩, ⟨_, rfl⟩⟩
theorem witness_CapsFieldsAreHardwired : (idle 65535).params.wf :=
  ⟨by decide, Nat.le_refl _, by decide⟩
theorem witness_NopHasNoEffect :
    opField 0x00_00000000_00000001 = 0x00 ∧ bField 0x00_00000000_00000001 ≠ 0 ∧
      opField 0x00_80000000_00000000 = 0x00 ∧ aField 0x00_80000000_00000000 ≠ 0 := by decide
theorem witness_ClearResetsAllButTheOutput :
    opField 0x03_00000000_80000000 = 0x03 ∧ bField 0x03_00000000_80000000 ≠ 0 ∧
      opField 0x03_00000001_00000000 = 0x03 ∧ aField 0x03_00000001_00000000 ≠ 0 := by decide
theorem witness_ReadRegEmitsTheRegister :
    reg (idle 2) 0x06 = some 0 ∧ reg (idle 2) 0x1E = some 600 ∧
      (0x07 ≤ (0x07 : RegAddr).toNat ∧ (0x07 : RegAddr).toNat ≤ 0x0F) ∧ (0x0F : RegAddr).toNat ≤ 0x0F ∧
      0x1F ≤ (0x1F : RegAddr).toNat ∧ 0x1F ≤ (0xFF : RegAddr).toNat ∧
      (opField 0x04_00000000_000000FF = 0x04 ∧ aField 0x04_00000000_000000FF = 0 ∧ bHighField 0x04_00000000_000000FF = 0) ∧
      opField 0x04_00000000_00000100 = 0x04 ∧ bHighField 0x04_00000000_00000100 ≠ 0 := by decide
theorem witness_RegisterReadIsASnapshot :
    ∃ t, (reg oneOpen 0x1E).isSome ∧ exec (.readReg 0x1E) oneOpen = .next t := ⟨_, by decide, rfl⟩
theorem witness_RejectedCommandsChangeNothingElse :
    (0x05 ≤ (opField 0x05_00000000_00000000).toNat ∧ 0x05 ≤ (opField 0xFF_00000001_00000002).toNat) ∧
      (opField 0x02_00000001_00000000 = 0x02 ∧ aField 0x02_00000001_00000000 ≠ 0) ∧
      (opField 0x04_00000001_00000002 = 0x04 ∧ aField 0x04_00000001_00000002 ≠ 0) ∧
      (opField 0x04_00000000_00000007 = 0x04 ∧ aField 0x04_00000000_00000007 = 0 ∧ bHighField 0x04_00000000_00000007 = 0 ∧
        reg (idle 2) (addrField 0x04_00000000_00000007) = none) := by decide
theorem witness_PulseAppendsAndClosesAtTheGap :
    (oneOpen.Inv ∧ (7999 : Duration).toNat < 8000) ∧
      (oneOpen.Inv ∧ 8000 ≤ (8000 : Duration).toNat ∧ oneOpen.curPulses.toNat < oneOpen.params.maxPulses) ∧
      (fullFrame.Inv ∧ 8000 ≤ (8000 : Duration).toNat ∧ fullFrame.params.maxPulses ≤ fullFrame.curPulses.toNat) :=
  ⟨⟨oneOpen_inv, by decide⟩, ⟨oneOpen_inv, by decide, by decide⟩, ⟨fullFrame_inv, by decide, by decide⟩⟩
theorem witness_EndClosesTheFrameAndReportsTheStream :
    (idle 2).strmActive = false ∧
      (({ idle 2 with strmActive := true } : State).strmActive = true ∧
        ({ idle 2 with strmActive := true } : State).curPulses = 0) ∧
      (fullFrame.Inv ∧ fullFrame.strmActive = true ∧ fullFrame.curPulses ≠ 0 ∧
        fullFrame.curPulses.toNat ≤ fullFrame.params.maxPulses) ∧
      (overFrame.Inv ∧ overFrame.strmActive = true ∧ overFrame.params.maxPulses < overFrame.curPulses.toNat) ∧
      (opField 0x02_00000001_00000000 = 0x02 ∧ aField 0x02_00000001_00000000 ≠ 0) :=
  ⟨rfl, ⟨rfl, rfl⟩, ⟨fullFrame_inv, by decide, by decide, by decide⟩, ⟨overFrame_inv, by decide, by decide⟩, by decide⟩
theorem witness_EndOfEmptyStreamReportsInputIsEmpty : (idle 2).strmActive = false := rfl
theorem witness_StreamsBeginAtTheFirstPulse :
    (∃ t, exec (.pulse 0 0) (idle 2) = .next t) ∧ (∃ t, exec .endStream oneOpen = .next t) ∧
      (∃ t, exec .clear oneOpen = .next t) ∧ (∃ t, runCommand (encode .nop) oneOpen = .next t) ∧
      (∃ t, runCommand (encode (.readReg 0x06)) oneOpen = .next t) ∧
      (∃ t, runCommand 0x05_00000000_00000000 oneOpen = .next t) ∧
      (idle 2).Inv ∧ (idle 2).strmActive = false ∧
      (∀ w ∈ [encode (.pulse 8992 7999), encode (.readReg 0x07)], decode w ≠ .ok .endStream ∧ decode w ≠ .ok .clear) ∧
      pulsesOf [encode (.pulse 8992 7999), encode (.readReg 0x07)] = [⟨8992, 7999⟩] ∧
      8000 ≤ (8000 : Duration).toNat :=
  ⟨⟨_, rfl⟩, ⟨_, rfl⟩, ⟨_, rfl⟩, ⟨_, rfl⟩, ⟨_, rfl⟩, ⟨_, rfl⟩, idle_inv, rfl,
    List.forall_mem_cons.2 ⟨by decide, List.forall_mem_cons.2 ⟨by decide, List.forall_mem_nil _⟩⟩, by decide, by decide⟩
theorem witness_StreamEqualsTheBatchSegmenter :
    (idle 2).Inv ∧ (idle 2).strmActive = false ∧
      ∀ w ∈ [encode (.pulse 8992 4496), encode (.readReg 0x07), 0x7F_00000000_00000000, encode (.pulse 0 8000)],
        decode w ≠ .ok .endStream ∧ decode w ≠ .ok .clear :=
  ⟨idle_inv, rfl, List.forall_mem_cons.2 ⟨by decide, List.forall_mem_cons.2 ⟨by decide, List.forall_mem_cons.2 ⟨by decide,
    List.forall_mem_cons.2 ⟨by decide, List.forall_mem_nil _⟩⟩⟩⟩⟩
theorem witness_SegmentedFramesPartitionThePulses :
    segmentPulses [necLeader, ⟨562, 8000⟩, ⟨600, 7999⟩] = some [[necLeader, ⟨562, 8000⟩], [⟨600, 7999⟩]] := by decide
theorem witness_PulseDistanceComparesExactly : 0x80000000 ≤ (⟨0x80000000, 0xFFFFFFFF⟩ : Pulse).mark.toNat := by decide
theorem witness_the_five_tags :
    classify aehaLeader = .aeha ∧ classify necLeader = .nec ∧ classify sircLeader = .sirc ∧
      classify repeatLeader = .necRepeat ∧ classify otherLeader = .unknown := by decide
theorem witness_GapPulseBitsAndLoneLeaders :
    8000 ≤ (⟨4000, 8000⟩ : Pulse).space.toNat ∧ (⟨4000, 8000⟩ : Pulse).mark.toNat ≤ 4000 := by decide
theorem witness_decoder_lengths :
    (List.replicate 1 true).length < 2 ∧ 2 ≤ (List.replicate 2 true).length ∧ (List.replicate 7 true).length < 8 ∧
      8 ≤ (List.replicate 15 true).length ∧ (List.replicate 15 true).length < 16 ∧ 24 ≤ (List.replicate 24 true).length ∧
      (List.replicate 31 true).length < 32 ∧ (List.replicate 32 true).length = 32 ∧ 33 ≤ (List.replicate 33 true).length ∧
      16 ≤ (List.replicate 23 true).length ∧ (List.replicate 23 true).length < 24 := by decide
theorem witness_nec_short_fields :
    [7, 8, 15, 16, 23, 24, 31, 32].map (fun n => (decodeNec (List.replicate n true)).field) =
      [.custom0, .custom1, .custom1, .data0, .data0, .data1, .data1, .stop] := by decide
theorem witness_sirc_lengths :
    [11, 12, 13, 15, 16, 20, 21].map (fun n => (decodeSirc (List.replicate n true)).status) =
      [.unknownProtocol, .ok, .unknownProtocol, .ok, .unknownProtocol, .ok, .unknownProtocol] := by decide
theorem witness_frame_records :
    (∃ rest : List Pulse, rest.length + 1 ≤ 2 ∧ 2 ≤ 65535 ∧ rest ≠ []) ∧
      (∃ rest : List Pulse, 2 < rest.length + 1) ∧
      (frameRecord 2 0 (otherLeader :: [⟨500, 9000⟩])).length = 3 ∧
      (frameRecord 2 0 (aehaLeader :: [⟨440, 8000⟩])).length = 2 ∧
      (frameRecord 3 0 (aehaLeader :: [⟨440, 440⟩, ⟨440, 8000⟩])).length = 4 ∧
      (frameRecord 13 0 (sircLeader :: List.replicate 12 ⟨600, 600⟩)).length = 3 ∧
      (frameRecord 34 0 (necLeader :: List.replicate 32 ⟨562, 562⟩)).length = 2 ∧
      (frameRecord 34 0 (necLeader :: List.replicate 33 ⟨562, 562⟩)).length = 3 :=
  ⟨⟨[necLeader], by decide⟩, ⟨[necLeader, necLeader], by decide⟩, by decide, by decide, by decide, by decide, by decide,
    by decide⟩
theorem witness_FrameRecordWordCounts : ∃ t, oneOpen.Inv ∧ exec .endStream oneOpen = .next t := ⟨_, oneOpen_inv, rfl⟩
theorem witness_StepRunsTheDecodedCommand :
    ∃ s : State, s.script = [.command (encode .nop)] ∧ s.pending = [] ∧ decode (encode .nop) = .ok .nop :=
  ⟨{ idle 2 with script := [.command (encode .nop)] }, rfl, rfl, by decide⟩
theorem witness_HoldsWhilePendingWaits :
    (∃ s : State, ∃ w ws, s.script = [.command 0] ∧ s.pending = w :: ws ∧ s.outq.length < s.params.outDepth) ∧
      ((waiting []).pending ≠ [] ∧ (waiting []).params.outDepth ≤ (waiting []).outq.length) ∧
      (∃ c rest, (waiting [.command 0]).script = .command c :: rest) ∧
      ((waiting [.take]).Inv ∧ (waiting [.take]).params.outDepth ≤ (waiting [.take]).outq.length) :=
  ⟨⟨{ waiting [.command 0] with outq := [] }, _, _, rfl, rfl, by decide⟩, ⟨by decide, by decide⟩, ⟨_, _, rfl⟩,
    waiting_inv _, by decide⟩
theorem witness_TakeDeliversTheHead :
    ∃ w ws rest, (waiting [.take]).script = .take :: rest ∧ (waiting [.take]).outq = w :: ws := ⟨_, _, _, rfl, rfl⟩
theorem witness_CommandsOnlyAppendToPending : ∃ t, runCommand (encode .endStream) overFrame = .next t := ⟨_, rfl⟩
theorem witness_runs_without_reset :
    ∃ t : State, (∀ e ∈ (waiting [.take, .take]).script, e ≠ .reset) ∧
      Host.Core.run Sys2Proof.core 3 (waiting [.take, .take]) = .next t ∧ t.script = [] :=
  ⟨_, by decide, rfl, by decide⟩
theorem witness_TakingHostGetsEveryWord :
    (waiting [.take, .take, .take]).Inv ∧
      (waiting [.take, .take, .take]).script =
        List.replicate ((waiting [.take, .take, .take]).pending.length + (waiting [.take, .take, .take]).outq.length) .take :=
  ⟨waiting_inv _, rfl⟩
theorem witness_FinishedRunsDeliverNothingMore :
    ({ idle 2 with script := [.take, .wait, .reset] } : State).finished ∧ ¬ (waiting []).finished ∧
      ¬ ({ idle 2 with script := [.command 0] } : State).finished := ⟨⟨rfl, rfl, rfl⟩, by decide, by decide⟩
theorem witness_AssembledCommandsDecodeAsWritten :
    2 ^ 32 ≤ 0x100000000 ∧ 2 ^ 8 ≤ 0x100 ∧ 0xFFFFFFFF < 2 ^ 32 ∧ 0xFF < 2 ^ 8 := by decide

end Sys2Proof.Tests
end

section
/-! PROOFS (spec/00_scope.md R5, spec/20_memory.md R55). A command reads no result word, nothing of the host and nothing
of the FIFO, and adds its words after those already there. So a run with moves and takes is simulated by the commands run
one after another. -/

namespace Sys2Proof.Machine

/-! ## The core of a state, and its output -/

/-- The state with no result word and no host: what `SameCore` compares. -/
def State.quiet (s : State) : State := { s with pending := [], outq := [], script := [], taken := [] }

/-- The block `s` in the place of the block `h`: it has `h`'s FIFO and `h`'s host, and its pending words come behind
`h`'s. -/
def State.behind (s h : State) : State :=
  { s with pending := h.pending ++ s.pending, outq := h.outq, script := h.script, taken := h.taken }

@[simp] theorem behind_pending (s h : State) : (s.behind h).pending = h.pending ++ s.pending := rfl
@[simp] theorem behind_outq (s h : State) : (s.behind h).outq = h.outq := rfl
@[simp] theorem behind_script (s h : State) : (s.behind h).script = h.script := rfl
@[simp] theorem behind_taken (s h : State) : (s.behind h).taken = h.taken := rfl

theorem quiet_behind_self (s : State) : s.quiet.behind s = s := by simp [State.quiet, State.behind]

theorem resultStream_behind (s h : State) : (s.behind h).resultStream = h.resultStream ++ s.pending := by
  simp [State.resultStream]

theorem SameCore.refl (s : State) : SameCore s s := ⟨rfl, rfl, rfl, rfl, rfl, rfl, rfl, rfl, rfl⟩

theorem SameCore.behind (s h g : State) : SameCore (s.behind h) (s.behind g) :=
  ⟨rfl, rfl, rfl, rfl, rfl, rfl, rfl, rfl, rfl⟩

theorem SameCore.quiet_eq {s t : State} (h : SameCore s t) : s.quiet = t.quiet := by
  obtain ⟨ha, hc, hb, hf, htf, htp, hi, ho, hp⟩ := h
  simp [State.quiet, ha, hc, hb, hf, htf, htp, hi, ho, hp]

/-! ## Commands ignore the output -/

/-- `f` reads nothing of the result words and of the host, keeps what is there, and adds its words at the tail of
`pending`. -/
def IgnoresOutput (f : State → Result) : Prop :=
  ∀ s h : State, f (s.behind h) = andThen (f s) fun t => .next (t.behind h)

theorem IgnoresOutput.andThen {f g : State → Result} (hf : IgnoresOutput f) (hg : IgnoresOutput g) :
    IgnoresOutput fun s => andThen (f s) g := by
  intro s h
  simp only [hf s h]
  cases f s with
  | next t => exact hg t h
  | fault e => rfl
  | refused r => rfl

theorem emit_behind (rs : List Record) (s h : State) : emit rs (s.behind h) = (emit rs s).behind h := by
  simp [emit, State.behind]

theorem fbufReadFrom_behind (s h : State) (i count : Nat) :
    fbufReadFrom (s.behind h) i count = fbufReadFrom s i count := by
  induction count generalizing i with
  | zero => rfl
  | succ count ih =>
    have hr : fbufRead (s.behind h) i = fbufRead s i := rfl
    simp only [fbufReadFrom, hr, ih]

theorem closeFrame_ignoresOutput : IgnoresOutput closeFrame := by
  intro s h
  have hr : fbufRead (s.behind h) 0 = fbufRead s 0 := rfl
  have hc : (s.behind h).curPulses = s.curPulses := rfl
  have hm : (s.behind h).params = s.params := rfl
  have hi : frameIdx (s.behind h) = frameIdx s := rfl
  have ho : setOvfSeen (s.behind h) = (setOvfSeen s).behind h := rfl
  have hn (t : State) : countFrame (t.behind h) = (countFrame t).behind h := rfl
  simp only [closeFrame, hr, hc, hm, hi, ho, fbufReadFrom_behind, emit_behind, hn]
  cases fbufRead s 0 with
  | none => rfl
  | some leader =>
    dsimp only
    split
    · rfl
    · cases fbufReadFrom s 1 (s.curPulses.toNat - 1) <;> rfl

theorem closeOpenFrame_ignoresOutput : IgnoresOutput closeOpenFrame := by
  intro s h
  have hc : (s.behind h).curPulses = s.curPulses := rfl
  simp only [closeOpenFrame, hc]
  split
  · rfl
  · exact closeFrame_ignoresOutput s h

theorem execPulse_ignoresOutput (mark space : Duration) : IgnoresOutput (execPulse mark space) := by
  intro s h
  have ha : acceptPulse ⟨mark, space⟩ (s.behind h) = (acceptPulse ⟨mark, space⟩ s).behind h := rfl
  simp only [execPulse, ha]
  split
  · exact closeFrame_ignoresOutput _ h
  · rfl

theorem reportStream_ignoresOutput (status : StreamStatus) (frames : State → BitVec 32)
    (hf : ∀ s h : State, frames (s.behind h) = frames s) :
    IgnoresOutput fun s => .next (finishStream (emit [.streamEnd (frames s) status] s)) := by
  intro s h
  simp only [hf, emit_behind]
  rfl

theorem execEnd_ignoresOutput : IgnoresOutput execEnd := by
  intro s h
  have ha : (s.behind h).strmActive = s.strmActive := rfl
  simp only [execEnd, ha]
  split
  · exact closeOpenFrame_ignoresOutput.andThen (reportStream_ignoresOutput .ok State.strmFrames fun _ _ => rfl) s h
  · exact reportStream_ignoresOutput .inputIsEmpty (fun _ => 0) (fun _ _ => rfl) s h

theorem reject_ignoresOutput (op : BitVec 8) (kind : CmdErrorKind) (addr : RegAddr) :
    IgnoresOutput (reject op kind addr) := by
  intro s h
  have hi : setIllSeen (s.behind h) = (setIllSeen s).behind h := rfl
  simp only [reject, hi, emit_behind, andThen_next]

theorem execReadReg_ignoresOutput (addr : RegAddr) : IgnoresOutput (execReadReg addr) := by
  intro s h
  have hr : reg (s.behind h) addr = reg s addr := rfl
  simp only [execReadReg, hr]
  cases reg s addr with
  | none => exact reject_ignoresOutput _ _ _ s h
  | some v => simp only [emit_behind, andThen_next]

theorem exec_ignoresOutput (i : Instr) : IgnoresOutput (exec i) := by
  cases i with
  | nop => exact fun _ _ => rfl
  | pulse mark space => exact execPulse_ignoresOutput mark space
  | endStream => exact execEnd_ignoresOutput
  | clear => exact fun _ _ => rfl
  | readReg addr => exact execReadReg_ignoresOutput addr

theorem runCommand_ignoresOutput (w : Word72) : IgnoresOutput (runCommand w) := by
  intro s h
  cases hd : decode w with
  | ok i =>
    rw [runCommand_of_ok hd, runCommand_of_ok hd]
    exact exec_ignoresOutput i s h
  | error kind =>
    rw [runCommand_of_error hd, runCommand_of_error hd]
    exact reject_ignoresOutput (opField w) kind (addrField w) s h

/-- Where a function that ignores the output goes on, its quiet run says what it does to the core and which words it adds
to those there. -/
theorem IgnoresOutput.eq_behind {f : State → Result} (hf : IgnoresOutput f) {s t : State} (h : f s = .next t) :
    ∃ q, f s.quiet = .next q ∧ t = q.behind s := by
  have hs := hf s.quiet s
  rw [quiet_behind_self, h] at hs
  obtain ⟨q, hq, ht⟩ := andThen_eq_next hs.symm
  exact ⟨q, hq, by simpa using ht.symm⟩

theorem runCommand_script {w : Word72} {s t : State} (h : runCommand w s = .next t) : t.script = s.script := by
  obtain ⟨q, -, rfl⟩ := (runCommand_ignoresOutput w).eq_behind h
  exact behind_script q s

/-! ## The simulation -/

/-- The two states have the same core, and the runs so far have the same words: how far the words have moved, and what the
host does next, may differ. -/
structure SameRun (s t : State) : Prop where
  core   : SameCore s t
  stream : s.resultStream = t.resultStream

theorem SameRun.refl (s : State) : SameRun s s := ⟨.refl s, rfl⟩

theorem SameRun.trans {s t u : State} (h : SameRun s t) (g : SameRun t u) : SameRun s u := by
  obtain ⟨⟨ha, hc, hb, hf, htf, htp, hi, ho, hp⟩, hs⟩ := h
  obtain ⟨⟨ga, gc, gb, gf, gtf, gtp, gi, go, gp⟩, gs⟩ := g
  exact ⟨⟨ha.trans ga, hc.trans gc, hb.trans gb, hf.trans gf, htf.trans gtf, htp.trans gtp, hi.trans gi, ho.trans go,
    hp.trans gp⟩, hs.trans gs⟩

theorem sameRun_script (s : State) (es : List HostEvent) : SameRun { s with script := es } s :=
  ⟨⟨rfl, rfl, rfl, rfl, rfl, rfl, rfl, rfl, rfl⟩, rfl⟩

theorem moveWord_script (s : State) : (moveWord s).script = s.script := by
  obtain h | ⟨w, ws, -, -, h⟩ := moveWord_cases s <;> rw [h]

theorem sameRun_moveWord (s : State) : SameRun (moveWord s) s := by
  obtain h | ⟨w, ws, hp, -, h⟩ := moveWord_cases s
  · rw [h]
    exact .refl s
  · rw [h]
    exact ⟨⟨rfl, rfl, rfl, rfl, rfl, rfl, rfl, rfl, rfl⟩, by simp [State.resultStream, hp]⟩

theorem sameRun_take {s : State} {w : Word72} {ws : List Word72} (hq : s.outq = w :: ws) (es : List HostEvent) :
    SameRun { s with outq := ws, taken := s.taken ++ [w], script := es } s :=
  ⟨⟨rfl, rfl, rfl, rfl, rfl, rfl, rfl, rfl, rfl⟩, by simp [State.resultStream, hq]⟩

/-- A command that runs from one of two states of the same run also runs from the other, to states of the same run. -/
theorem SameRun.runCommand {s s' t : State} {w : Word72} (hs : SameRun s s') (h : runCommand w s = .next t) :
    ∃ t', Machine.runCommand w s' = .next t' ∧ SameRun t t' := by
  obtain ⟨q, hq, rfl⟩ := (runCommand_ignoresOutput w).eq_behind h
  have h' := runCommand_ignoresOutput w s'.quiet s'
  rw [quiet_behind_self, ← hs.core.quiet_eq, hq, andThen_next] at h'
  exact ⟨q.behind s', h', .behind q s s', by rw [resultStream_behind, resultStream_behind, hs.stream]⟩

/-- A step that is no reset either runs the next command, or changes only where the words of the run stand, and uses up no
command. -/
theorem step_silent_or_command {s t : State} (hr : ∀ e ∈ s.script, e ≠ .reset) (h : step s = .next t) :
    (t.script <:+ s.script ∧ commandWords t.script = commandWords s.script ∧ SameRun t s) ∨
      ∃ w, s.script = .command w :: t.script ∧ runCommand w { s with script := t.script } = .next t := by
  have hmove : (moveWord s).script <:+ s.script ∧ commandWords (moveWord s).script = commandWords s.script ∧
      SameRun (moveWord s) s := by
    rw [moveWord_script]
    exact ⟨List.suffix_rfl, rfl, sameRun_moveWord s⟩
  obtain ⟨-, rfl⟩ | ⟨rest, hs, rfl⟩ | ⟨rest, hs, -⟩ | ⟨rest, w, ws, hs, hq, rfl⟩ | ⟨rest, hs, -, -, rfl⟩ |
    ⟨-, -, -, -, rfl⟩ | ⟨w, rest, hs, -, hw⟩ | ⟨-, -, -, -, rfl⟩ := step_cases h
  · exact .inl hmove
  · rw [moveWord_script, hs]
    exact .inl ⟨List.suffix_cons _ _, rfl, (sameRun_moveWord _).trans (sameRun_script s rest)⟩
  · exact absurd rfl (hr .reset (hs ▸ List.mem_cons_self))
  · rw [hs]
    exact .inl ⟨List.suffix_cons _ _, rfl, sameRun_take hq rest⟩
  · rw [hs]
    exact .inl ⟨List.suffix_cons _ _, rfl, sameRun_script s rest⟩
  · exact .inl hmove
  · obtain rfl : t.script = rest := runCommand_script hw
    exact .inr ⟨w, hs, hw⟩
  · exact .inl hmove

/-- The commands of a script, run one after another from any state of the same run, simulate a run without a reset that
uses up the script. -/
theorem run_simulated_by_runWords (k : Nat) {s s' t : State} (hs : SameRun s s') (hr : ∀ e ∈ s.script, e ≠ .reset)
    (h : Host.Core.run Sys2Proof.core k s = .next t) (ht : t.script = []) :
    ∃ u, runWords (commandWords s.script) s' = .next u ∧ SameRun t u := by
  induction k generalizing s s' with
  | zero =>
    rw [run_zero] at h
    obtain rfl : s = t := Host.Outcome.next.inj h
    exact ⟨s', by rw [ht]; rfl, hs⟩
  | succ k ih =>
    obtain ⟨v, hv, hrun⟩ := run_succ_eq_next h
    obtain ⟨hsuf, hcmd, hsame⟩ | ⟨w, hscript, hw⟩ := step_silent_or_command hr hv
    · rw [← hcmd]
      exact ih (hsame.trans hs) (fun e he => hr e (hsuf.mem he)) hrun
    · obtain ⟨v', hv', hsame⟩ := ((sameRun_script s _).trans hs).runCommand hw
      obtain ⟨u, hu, htu⟩ := ih hsame (fun e he => hr e (hscript ▸ List.mem_cons_of_mem _ he)) hrun
      refine ⟨u, ?_, htu⟩
      rw [hscript, commandWords_command, runWords, hv', andThen_next, hu]

/-- Settles O48, by the simulation of the run by the commands alone, started from the run's own first state. -/
theorem runsMatchSequentialExecution : Obligations.RunsMatchSequentialExecution := by
  intro k s t hr h ht
  obtain ⟨u, hu, hcore, hstream⟩ := run_simulated_by_runWords k (.refl s) hr h ht
  exact ⟨u, hu, hcore, hstream⟩

end Sys2Proof.Machine
end

section
/-! PROOFS (spec/10_state.md R22 to R24, spec/40_segmenter.md R106). What a step can do to the block: move words, reset,
or run one command. The invariant and the frame counts are followed through these three. -/

namespace Sys2Proof.Machine

/-! ## What a step and a command can do -/

theorem moveWord_keeps_fifo {s : State} (h : s.outq.length ≤ s.params.outDepth) :
    (moveWord s).outq.length ≤ (moveWord s).params.outDepth := by
  obtain hm | ⟨w, ws, -, hroom, hm⟩ := moveWord_cases s <;> rw [hm]
  · exact h
  · simpa using hroom

/-- A step leaves the core alone and the FIFO within its depth, or resets the block, or runs one command. -/
theorem step_core_cases {s t : State} (h : step s = .next t) :
    (SameCore t s ∧ (s.outq.length ≤ s.params.outDepth → t.outq.length ≤ t.params.outDepth)) ∨
      (∃ rest, t = resetBlock { s with script := rest }) ∨
      ∃ w rest, runCommand w { s with script := rest } = .next t := by
  have hmove : SameCore (moveWord s) s ∧
      (s.outq.length ≤ s.params.outDepth → (moveWord s).outq.length ≤ (moveWord s).params.outDepth) :=
    ⟨(sameRun_moveWord s).core, moveWord_keeps_fifo⟩
  obtain ⟨-, rfl⟩ | ⟨rest, -, rfl⟩ | ⟨rest, -, rfl⟩ | ⟨rest, w, ws, -, hq, rfl⟩ | ⟨rest, -, -, -, rfl⟩ |
    ⟨-, -, -, -, rfl⟩ | ⟨w, rest, -, -, hw⟩ | ⟨-, -, -, -, rfl⟩ := step_cases h
  · exact .inl hmove
  · exact .inl ⟨((sameRun_moveWord _).trans (sameRun_script s rest)).core,
      moveWord_keeps_fifo (s := { s with script := rest })⟩
  · exact .inr (.inl ⟨rest, rfl⟩)
  · refine .inl ⟨(sameRun_take hq rest).core, fun hfifo => ?_⟩
    rw [hq] at hfifo
    exact Nat.le_of_succ_le hfifo
  · exact .inl ⟨(sameRun_script s rest).core, id⟩
  · exact .inl hmove
  · exact .inr (.inr ⟨w, rest, hw⟩)
  · exact .inl hmove

/-- A command word that runs is a command, or is rejected: `ill_seen` is set, and one record emitted. -/
theorem runCommand_cases {w : Word72} {s t : State} (h : runCommand w s = .next t) :
    (∃ i, decode w = .ok i ∧ exec i s = .next t) ∨
      ∃ kind r, decode w = .error kind ∧ t = emit [r] (setIllSeen s) := by
  cases hd : decode w with
  | ok i => exact .inl ⟨i, rfl, (runCommand_of_ok hd s).symm.trans h⟩
  | error kind =>
    rw [runCommand_of_error hd, rejectWord_eq] at h
    exact .inr ⟨kind, _, rfl, (Host.Outcome.next.inj h).symm⟩

/-- The state `s` once its open frame has closed with the record `rs`: the frame is counted, and one past the capacity
has set `ovf_seen`. -/
def closedFrame (rs : List Record) (s : State) : State :=
  countFrame (emit rs { s with ovfSeen := s.ovfSeen || decide (s.params.maxPulses < s.curPulses.toNat) })

theorem closedFrame_ovfSeen (rs : List Record) (s : State) :
    (closedFrame rs s).ovfSeen = true ↔ s.ovfSeen = true ∨ s.params.maxPulses < s.curPulses.toNat := by
  simp [closedFrame]

theorem closeFrame_eq_closedFrame {s t : State} (h : closeFrame s = .next t) : ∃ rs, t = closedFrame rs s := by
  obtain ⟨leader, -, ⟨hm, rfl⟩ | ⟨hm, rest, -, rfl⟩⟩ := closeFrame_cases h
  · exact ⟨_, by rw [closedFrame, decide_eq_true hm, Bool.or_true, setOvfSeen]⟩
  · exact ⟨_, by rw [closedFrame, decide_eq_false (by omega), Bool.or_false]⟩

/-- PULSE accepts its pulse, and a gap pulse closes the frame as well. -/
theorem execPulse_next {mark space : Duration} {s t : State} (h : execPulse mark space s = .next t) :
    (space.toNat < 8000 ∧ t = acceptPulse ⟨mark, space⟩ s) ∨
      (8000 ≤ space.toNat ∧ ∃ rs, t = closedFrame rs (acceptPulse ⟨mark, space⟩ s)) := by
  have hiff : isGap ⟨mark, space⟩ = true ↔ 8000 ≤ space.toNat := isGap_iff ⟨mark, space⟩
  obtain ⟨hgap, rfl⟩ | ⟨hgap, hclose⟩ := execPulse_cases h
  · exact .inl ⟨Nat.lt_of_not_le fun hle => Bool.noConfusion (hgap.symm.trans (hiff.mpr hle)), rfl⟩
  · exact .inr ⟨hiff.mp hgap, closeFrame_eq_closedFrame hclose⟩

/-- END reports an empty stream, a stream with no frame open, or a stream whose open frame it closes first. -/
theorem execEnd_next {s t : State} (h : execEnd s = .next t) :
    (s.strmActive = false ∧ ∃ r, t = finishStream (emit [r] s)) ∨
      (s.strmActive = true ∧ s.curPulses = 0 ∧ ∃ r, t = finishStream (emit [r] s)) ∨
      (s.strmActive = true ∧ ∃ rs r, t = finishStream (emit [r] (closedFrame rs s))) := by
  obtain ⟨ha, rfl⟩ | ⟨ha, hc, rfl⟩ | ⟨ha, -, u, hclose, rfl⟩ := execEnd_cases h
  · exact .inl ⟨ha, _, rfl⟩
  · exact .inr (.inl ⟨ha, hc, _, rfl⟩)
  · obtain ⟨rs, rfl⟩ := closeFrame_eq_closedFrame hclose
    exact .inr (.inr ⟨ha, rs, _, rfl⟩)

/-! ## The invariant -/

theorem State.Inv.of_sameCore {s t : State} (h : s.Inv) (hc : SameCore t s)
    (hfifo : t.outq.length ≤ t.params.outDepth) : t.Inv := by
  obtain ⟨hw, hidle, hb, -⟩ := h
  refine ⟨?_, ?_, ?_, hfifo⟩
  · rwa [hc.params]
  · rwa [hc.strmActive, hc.curPulses, hc.strmFrames]
  · rwa [hc.fbuf, hc.curPulses, hc.params]

theorem resetOf_inv {p : Params} (h : p.wf) : (State.resetOf p).Inv :=
  ⟨h, fun _ => ⟨rfl, rfl⟩, (Nat.zero_min _).symm, Nat.zero_le _⟩

theorem resetBlock_inv {s : State} (h : s.params.wf) : (resetBlock s).Inv :=
  (resetOf_inv h).of_sameCore ⟨rfl, rfl, rfl, rfl, rfl, rfl, rfl, rfl, rfl⟩ (Nat.zero_le _)

theorem emit_keeps_inv {s : State} (h : s.Inv) (rs : List Record) : (emit rs s).Inv :=
  ⟨h.params, h.idle, h.buffer, h.fifo⟩

theorem setIllSeen_keeps_inv {s : State} (h : s.Inv) : (setIllSeen s).Inv :=
  ⟨h.params, h.idle, h.buffer, h.fifo⟩

theorem clearStream_keeps_inv {s : State} (h : s.Inv) : (clearStream s).Inv :=
  ⟨h.params, fun _ => ⟨rfl, rfl⟩, (Nat.zero_min _).symm, h.fifo⟩

/-- END may end a stream once no frame is open. -/
theorem finishStream_keeps_inv {s : State} (h : s.Inv) (hc : s.curPulses = 0) : (finishStream s).Inv :=
  ⟨h.params, fun _ => ⟨hc, rfl⟩, h.buffer, h.fifo⟩

/-- A frame of an active stream may close: the buffer is empty and no frame is open afterwards. -/
theorem closedFrame_keeps_inv {s : State} (h : s.Inv) (ha : s.strmActive = true) (rs : List Record) :
    (closedFrame rs s).Inv :=
  ⟨h.params, fun hidle => absurd (ha.symm.trans hidle) Bool.noConfusion, (Nat.zero_min _).symm, h.fifo⟩

theorem execPulse_keeps_inv {mark space : Duration} {s t : State} (h : s.Inv) (ht : execPulse mark space s = .next t) :
    t.Inv := by
  have ha := acceptPulse_keeps_inv h ⟨mark, space⟩
  obtain ⟨-, rfl⟩ | ⟨-, rs, rfl⟩ := execPulse_next ht
  · exact ha
  · exact closedFrame_keeps_inv ha rfl rs

theorem execEnd_keeps_inv {s t : State} (h : s.Inv) (ht : execEnd s = .next t) : t.Inv := by
  obtain ⟨ha, r, rfl⟩ | ⟨-, hc, r, rfl⟩ | ⟨ha, rs, r, rfl⟩ := execEnd_next ht
  · exact finishStream_keeps_inv (emit_keeps_inv h _) (h.idle ha).1
  · exact finishStream_keeps_inv (emit_keeps_inv h _) hc
  · exact finishStream_keeps_inv (emit_keeps_inv (closedFrame_keeps_inv h ha rs) _) rfl

theorem execReadReg_keeps_inv {addr : RegAddr} {s t : State} (h : s.Inv) (ht : execReadReg addr s = .next t) :
    t.Inv := by
  obtain ⟨v, -, rfl⟩ | ⟨-, rfl⟩ := execReadReg_cases ht
  · exact emit_keeps_inv h _
  · exact emit_keeps_inv (setIllSeen_keeps_inv h) _

theorem exec_keeps_inv {i : Instr} {s t : State} (h : s.Inv) (ht : exec i s = .next t) : t.Inv := by
  cases i with
  | nop => exact Host.Outcome.next.inj ht ▸ h
  | pulse mark space => exact execPulse_keeps_inv h ht
  | endStream => exact execEnd_keeps_inv h ht
  | clear => exact Host.Outcome.next.inj ht ▸ clearStream_keeps_inv h
  | readReg addr => exact execReadReg_keeps_inv h ht

theorem runCommand_keeps_inv {w : Word72} {s t : State} (h : s.Inv) (ht : runCommand w s = .next t) : t.Inv := by
  obtain ⟨i, -, hi⟩ | ⟨kind, r, -, rfl⟩ := runCommand_cases ht
  · exact exec_keeps_inv h hi
  · exact emit_keeps_inv (setIllSeen_keeps_inv h) _

/-- Settles O9: words that move keep the core, reset starts in the invariant, and every command keeps it. -/
theorem stepKeepsTheInvariant : Obligations.StepKeepsTheInvariant := by
  intro s t h ht
  have hscript (es : List HostEvent) : ({ s with script := es } : State).Inv :=
    h.of_sameCore (sameRun_script s es).core h.fifo
  obtain ⟨hcore, hfifo⟩ | ⟨rest, rfl⟩ | ⟨w, rest, hw⟩ := step_core_cases ht
  · exact h.of_sameCore hcore (hfifo h.fifo)
  · exact resetBlock_inv (hscript rest).params
  · exact runCommand_keeps_inv (hscript rest) hw

/-- Settles O8: the reset state is idle, with an empty buffer, an empty FIFO and no word in its result stream. -/
theorem resetStateMeetsTheInvariant : Obligations.ResetStateMeetsTheInvariant := by
  have hwords (p : Params) : (State.resetOf p).wordsLegal := List.forall_mem_nil _
  have hbuild : buildParams.wf := by decide
  exact ⟨fun p hp => ⟨resetOf_inv hp, hwords p⟩, resetOf_inv hbuild, hwords buildParams⟩

/-! ## The frame counts -/

/-- How the two frame counts may change: both stay, both count one frame, or the stream's returns to 0. -/
def FramesCountedTogether (s t : State) : Prop :=
  t.strmFrames = 0 ∨ (t.strmFrames = s.strmFrames ∧ t.totFrames = s.totFrames) ∨
    (t.strmFrames = wrapIncr s.strmFrames ∧ t.totFrames = wrapIncr s.totFrames)

theorem FramesCountedTogether.le {s t : State} (h : FramesCountedTogether s t)
    (hle : s.strmFrames.toNat ≤ s.totFrames.toNat) (hwrap : s.totFrames.toNat < 2 ^ 32 - 1) :
    t.strmFrames.toNat ≤ t.totFrames.toNat := by
  obtain hz | ⟨hs, ht⟩ | ⟨hs, ht⟩ := h
  · rw [hz]
    exact Nat.zero_le _
  · rwa [hs, ht]
  · rw [hs, ht, wrapIncr_toNat, wrapIncr_toNat]
    omega

theorem execPulse_counts_frames {mark space : Duration} {s t : State} (h : execPulse mark space s = .next t) :
    FramesCountedTogether s t := by
  obtain ⟨-, rfl⟩ | ⟨-, rs, rfl⟩ := execPulse_next h
  · exact .inr (.inl ⟨rfl, rfl⟩)
  · exact .inr (.inr ⟨rfl, rfl⟩)

theorem execEnd_strmFrames {s t : State} (h : execEnd s = .next t) : t.strmFrames = 0 := by
  obtain ⟨-, r, rfl⟩ | ⟨-, -, r, rfl⟩ | ⟨-, rs, r, rfl⟩ := execEnd_next h <;> rfl

theorem exec_counts_frames {i : Instr} {s t : State} (h : exec i s = .next t) : FramesCountedTogether s t := by
  cases i with
  | nop => exact Host.Outcome.next.inj h ▸ .inr (.inl ⟨rfl, rfl⟩)
  | pulse mark space => exact execPulse_counts_frames h
  | endStream => exact .inl (execEnd_strmFrames h)
  | clear => exact Host.Outcome.next.inj h ▸ .inl rfl
  | readReg addr =>
    obtain ⟨v, -, rfl⟩ | ⟨-, rfl⟩ := execReadReg_cases h <;> exact .inr (.inl ⟨rfl, rfl⟩)

theorem runCommand_counts_frames {w : Word72} {s t : State} (h : runCommand w s = .next t) :
    FramesCountedTogether s t := by
  obtain ⟨i, -, hi⟩ | ⟨kind, r, -, rfl⟩ := runCommand_cases h
  · exact exec_counts_frames hi
  · exact .inr (.inl ⟨rfl, rfl⟩)

theorem step_counts_frames {s t : State} (h : step s = .next t) : FramesCountedTogether s t := by
  obtain ⟨hcore, -⟩ | ⟨rest, rfl⟩ | ⟨w, rest, hw⟩ := step_core_cases h
  · exact .inr (.inl ⟨hcore.strmFrames, hcore.totFrames⟩)
  · exact .inl rfl
  · exact runCommand_counts_frames (s := { s with script := rest }) hw

/-- Settles O10: a step that counts a frame adds it to both counts, and no step lowers the total alone. -/
theorem stepKeepsStreamFramesWithinTotal : Obligations.StepKeepsStreamFramesWithinTotal :=
  fun _ _ hle hwrap h => (step_counts_frames h).le hle hwrap

end Sys2Proof.Machine
end

section
/-! PROOFS (spec/10_state.md R24). Frame close reads only entries that hold a value, and the other commands read none: a
command does the same from `s` and from `s.valued`, up to what the buffer's list holds past the stored pulses. -/

namespace Sys2Proof.Machine

/-- The outcome without what the next state's buffer holds past its stored pulses. -/
def valuedResult (o : Result) : Result := andThen o fun t => .next t.valued

/-- `f` does not depend on what the buffer's list holds where no entry has a value. -/
def IgnoresValueless (f : State → Result) : Prop := ∀ s : State, valuedResult (f s.valued) = valuedResult (f s)

theorem valued_valued (s : State) : s.valued.valued = s.valued := by simp [State.valued]

theorem fbufRead_valued (s : State) (i : Nat) : fbufRead s.valued i = fbufRead s i := by
  have hfbuf : s.valued.fbuf = s.fbuf.take (min s.curPulses.toNat s.params.maxPulses) := rfl
  by_cases hi : i < min s.curPulses.toNat s.params.maxPulses
  · rw [fbufRead_of_lt (s := s.valued) hi, fbufRead_of_lt hi, hfbuf, List.getElem?_take_of_lt hi]
  · rw [fbufRead_eq_none (s := s.valued) (Nat.le_of_not_lt hi), fbufRead_eq_none (Nat.le_of_not_lt hi)]

theorem fbufReadFrom_valued (s : State) (i count : Nat) : fbufReadFrom s.valued i count = fbufReadFrom s i count := by
  induction count generalizing i with
  | zero => rfl
  | succ count ih => simp only [fbufReadFrom, fbufRead_valued, ih]

/-- A frame close leaves the buffer empty, so its next state does not keep what it did not read either. -/
theorem closeFrame_valued (s : State) : closeFrame s.valued = closeFrame s := by
  have hcount (rs : List Record) : countFrame (emit rs s.valued) = countFrame (emit rs s) := rfl
  have hovf (rs : List Record) : countFrame (emit rs (setOvfSeen s.valued)) = countFrame (emit rs (setOvfSeen s)) := rfl
  have hcur : s.valued.curPulses = s.curPulses := rfl
  have hparams : s.valued.params = s.params := rfl
  have hidx : frameIdx s.valued = frameIdx s := rfl
  simp only [closeFrame, fbufRead_valued, fbufReadFrom_valued, hcount, hovf, hcur, hparams, hidx]

theorem fbufWrite_take (buf : List Pulse) (i : Nat) (p : Pulse) : fbufWrite (buf.take i) i p = fbufWrite buf i p := by
  by_cases h : i ≤ buf.length
  · simp [fbufWrite, h]
  · rw [List.take_of_length_le (by omega)]

/-- PULSE writes behind the stored pulses where there is room; where there is none, the stored pulses stay. -/
theorem acceptPulse_valued (p : Pulse) (s : State) : (acceptPulse p s.valued).valued = (acceptPulse p s).valued := by
  have hsat := satIncr_toNat s.curPulses
  have hlt := s.curPulses.isLt
  by_cases hroom : s.curPulses.toNat < s.params.maxPulses
  · have hstored : min s.curPulses.toNat s.params.maxPulses = s.curPulses.toNat := by omega
    simp [State.valued, acceptPulse, hroom, hstored, fbufWrite_take]
  · have hstored : min s.curPulses.toNat s.params.maxPulses = s.params.maxPulses := by omega
    have hstored' : min (satIncr s.curPulses).toNat s.params.maxPulses = s.params.maxPulses := by omega
    simp [State.valued, acceptPulse, hroom, hstored, hstored']

theorem execPulse_ignoresValueless (mark space : Duration) : IgnoresValueless (execPulse mark space) := by
  intro s
  have ha := acceptPulse_valued ⟨mark, space⟩ s
  unfold execPulse
  split
  · rw [← closeFrame_valued, ha, closeFrame_valued]
  · exact congrArg Host.Outcome.next ha

theorem closeOpenFrame_ignoresValueless : IgnoresValueless closeOpenFrame := by
  intro s
  have hcur : s.valued.curPulses = s.curPulses := rfl
  simp only [closeOpenFrame, hcur]
  split
  · exact congrArg Host.Outcome.next (valued_valued s)
  · rw [closeFrame_valued]

theorem valuedResult_andThen {g : State → Result} (hg : IgnoresValueless g) (o : Result) :
    valuedResult (andThen o g) = andThen (valuedResult o) fun t => valuedResult (g t) := by
  cases o with
  | next t => exact (hg t).symm
  | fault e => rfl
  | refused r => rfl

theorem IgnoresValueless.andThen {f g : State → Result} (hf : IgnoresValueless f) (hg : IgnoresValueless g) :
    IgnoresValueless fun s => andThen (f s) g := by
  intro s
  simp only [valuedResult_andThen hg, hf s]

theorem reportStream_ignoresValueless (status : StreamStatus) (frames : State → BitVec 32)
    (hf : ∀ s : State, frames s.valued = frames s) :
    IgnoresValueless fun s => .next (finishStream (emit [.streamEnd (frames s) status] s)) := by
  intro s
  simp only [hf]
  exact congrArg Host.Outcome.next (valued_valued (finishStream (emit [.streamEnd (frames s) status] s)))

theorem execEnd_ignoresValueless : IgnoresValueless execEnd := by
  intro s
  have ha : s.valued.strmActive = s.strmActive := rfl
  simp only [execEnd, ha]
  split
  · exact closeOpenFrame_ignoresValueless.andThen
      (reportStream_ignoresValueless .ok State.strmFrames fun _ => rfl) s
  · exact reportStream_ignoresValueless .inputIsEmpty (fun _ => 0) (fun _ => rfl) s

theorem execReadReg_ignoresValueless (addr : RegAddr) : IgnoresValueless (execReadReg addr) := by
  intro s
  have hr : reg s.valued addr = reg s addr := rfl
  simp only [execReadReg, hr]
  cases reg s addr with
  | none => exact congrArg Host.Outcome.next (valued_valued (emit _ (setIllSeen s)))
  | some v => exact congrArg Host.Outcome.next (valued_valued (emit [.regValue addr v] s))

theorem exec_ignoresValueless (i : Instr) : IgnoresValueless (exec i) := by
  cases i with
  | nop => exact fun s => congrArg Host.Outcome.next (valued_valued s)
  | pulse mark space => exact execPulse_ignoresValueless mark space
  | endStream => exact execEnd_ignoresValueless
  | clear => exact fun _ => rfl
  | readReg addr => exact execReadReg_ignoresValueless addr

theorem valuedResult_eq_fault {o : Result} {e : Fault} (h : valuedResult o = .fault e) : o = .fault e := by
  cases o with
  | next t => exact nomatch h
  | fault d => exact h
  | refused r => exact nomatch h

theorem IgnoresValueless.next {f : State → Result} (hf : IgnoresValueless f) {s t : State} (h : f s = .next t) :
    ∃ u, f s.valued = .next u ∧ u.valued = t.valued := by
  have hs := hf s
  rw [h] at hs
  obtain ⟨u, hu, hut⟩ := andThen_eq_next hs
  exact ⟨u, hu, Host.Outcome.next.inj hut⟩

theorem IgnoresValueless.fault {f : State → Result} (hf : IgnoresValueless f) {s : State} {e : Fault}
    (h : f s = .fault e) : f s.valued = .fault e := by
  have hs := hf s
  rw [h] at hs
  exact valuedResult_eq_fault hs

/-- Settles O13: a closed frame leaves no pulse to read, and no command reads past the stored ones. -/
theorem valuelessEntriesAreNeverRead : Obligations.ValuelessEntriesAreNeverRead := by
  refine ⟨fun s i => fbufRead_eq_none, fun s t h i => ?_,
    fun i s => ⟨fun t => (exec_ignoresValueless i).next, fun e => (exec_ignoresValueless i).fault⟩⟩
  obtain ⟨rs, rfl⟩ := closeFrame_eq_closedFrame h
  exact fbufRead_eq_none ((Nat.zero_min _).trans_le (Nat.zero_le i))

end Sys2Proof.Machine
end

section
/-! PROOFS (spec/10_state.md R30 to R33). The register table: which addresses it implements, and the bits of CAPS and
STATUS. -/

namespace Sys2Proof.Machine

theorem reg_id (s : State) : reg s 0x00 = some s.params.blockId := rfl
theorem reg_caps (s : State) : reg s 0x01 = some (capsReg s) := rfl
theorem reg_status (s : State) : reg s 0x02 = some (statusReg s) := rfl
theorem reg_curPulses (s : State) : reg s 0x03 = some s.curPulses := rfl
theorem reg_strmFrames (s : State) : reg s 0x04 = some s.strmFrames := rfl
theorem reg_totFrames (s : State) : reg s 0x05 = some s.totFrames := rfl
theorem reg_totPulses (s : State) : reg s 0x06 = some s.totPulses := rfl

/-- The implemented addresses are the same in every state. -/
theorem reg_eq_none_iff (s : State) (a : RegAddr) :
    reg s a = none ↔ (0x07 ≤ a.toNat ∧ a.toNat ≤ 0x0F) ∨ (0x1F ≤ a.toNat ∧ a.toNat ≤ 0xFF) := by
  have ha := a.isLt
  simp only [reg, List.lookup_eq_none_iff, regTable, List.forall_mem_cons, List.not_mem_nil, IsEmpty.forall_iff,
    implies_true, and_true, bne_iff_ne, ne_eq, ← BitVec.toNat_inj, BitVec.ofNat_eq_ofNat, BitVec.toNat_ofNat]
  omega

/-- Settles O16, register by register. -/
theorem registerTableReadsAsGiven : Obligations.RegisterTableReadsAsGiven := by
  refine ⟨fun s => ?_, reg_eq_none_iff⟩
  exact ⟨reg_id s, rfl, rfl, reg_curPulses s, reg_strmFrames s, reg_totFrames s, reg_totPulses s, rfl, rfl, rfl, rfl,
    rfl, rfl, rfl, rfl, rfl, rfl, rfl, rfl, rfl, rfl, rfl⟩

/-! ## STATUS and CAPS -/

/-- STATUS as the list of its bits, from bit 0 up; the reserved bits read 0. -/
theorem statusReg_getLsbD (s : State) (i : Nat) :
    (statusReg s).getLsbD i =
      [s.strmActive, frameOpen s, s.illSeen, s.ovfSeen, frameOverflowing s].getD i false := by
  simp only [statusReg, BitVec.getLsbD_append]
  match i with
  | 0 | 1 | 2 | 3 | 4 | i + 5 => simp

theorem statusReg_resetBlock (s : State) : statusReg (resetBlock s) = 0 := by
  have hover : frameOverflowing (resetBlock s) = false := by simp [frameOverflowing]
  simp [statusReg, hover, frameOpen]

/-- Settles O17, bit by bit. -/
theorem statusBitsShowTheState : Obligations.StatusBitsShowTheState := by
  refine ⟨fun s => ⟨_, reg_status s, ?_⟩, fun s => congrArg some (statusReg_resetBlock s)⟩
  simp only [statusReg_getLsbD]
  exact ⟨rfl, rfl, rfl, rfl, rfl, fun i hi => List.getD_eq_default _ _ hi⟩

theorem capsReg_maxPulses (s : State) : (capsReg s).extractLsb' 0 16 = BitVec.ofNat 16 s.params.maxPulses := by
  rw [capsReg, extract_append_low _ _ (Nat.le_refl 16), extract_whole]

theorem capsReg_specRev (s : State) : (capsReg s).extractLsb' 16 8 = specRev := by
  rw [capsReg, extract_append_high _ _ (Nat.le_refl 16), extract_append_low _ _ (Nat.le_refl 8), extract_whole]

theorem capsReg_reserved (s : State) : (capsReg s).extractLsb' 24 8 = 0 := by
  rw [capsReg, extract_append_high _ _ (by decide : 16 ≤ 24), extract_append_high _ _ (Nat.le_refl 8), extract_whole]

/-- Settles O18: a capacity in range fits its 16 bits. -/
theorem capsFieldsAreHardwired : Obligations.CapsFieldsAreHardwired := by
  rintro s ⟨-, hmax, -⟩
  refine ⟨_, reg_caps s, ?_, capsReg_specRev s, capsReg_reserved s⟩
  rw [capsReg_maxPulses, BitVec.toNat_ofNat, Nat.mod_eq_of_lt (by omega)]

end Sys2Proof.Machine
end

section
/-! PROOFS (spec/10_state.md R25, R34). The sticky flags and the counters after each command. -/

namespace Sys2Proof.Machine

/-! ## The sticky flags -/

theorem execPulse_illSeen {mark space : Duration} {s t : State} (h : execPulse mark space s = .next t) :
    t.illSeen = s.illSeen := by
  obtain ⟨-, rfl⟩ | ⟨-, rs, rfl⟩ := execPulse_next h <;> rfl

theorem execEnd_illSeen {s t : State} (h : execEnd s = .next t) : t.illSeen = s.illSeen := by
  obtain ⟨-, r, rfl⟩ | ⟨-, -, r, rfl⟩ | ⟨-, rs, r, rfl⟩ := execEnd_next h <;> rfl

theorem exec_illSeen {i : Instr} {s t : State} (hi : i ≠ .clear) (h : exec i s = .next t) :
    t.illSeen = true ↔ s.illSeen = true ∨ ∃ a, i = .readReg a ∧ reg s a = none := by
  cases i with
  | nop => simp [← Host.Outcome.next.inj h]
  | pulse mark space => simp [execPulse_illSeen h]
  | endStream => simp [execEnd_illSeen h]
  | clear => exact absurd rfl hi
  | readReg addr =>
    obtain ⟨v, hv, rfl⟩ | ⟨hnone, rfl⟩ := execReadReg_cases h
    · simp [hv]
    · simp [hnone]

/-- PULSE sets `ovf_seen` by closing a frame that is past the capacity with this pulse. -/
theorem execPulse_ovfSeen {mark space : Duration} {s t : State} (h : execPulse mark space s = .next t) :
    t.ovfSeen = true ↔ s.ovfSeen = true ∨
      (8000 ≤ space.toNat ∧ s.params.maxPulses < min (s.curPulses.toNat + 1) (2 ^ 32 - 1)) := by
  obtain ⟨hspace, rfl⟩ | ⟨hspace, rs, rfl⟩ := execPulse_next h
  · simp [Nat.not_le_of_lt hspace]
  · rw [closedFrame_ovfSeen, acceptPulse_curPulses, satIncr_toNat]
    simp [hspace]

/-- END sets `ovf_seen` by closing an open frame past the capacity. -/
theorem execEnd_ovfSeen {s t : State} (h : execEnd s = .next t) :
    t.ovfSeen = true ↔ s.ovfSeen = true ∨ (s.strmActive = true ∧ s.params.maxPulses < s.curPulses.toNat) := by
  obtain ⟨ha, r, rfl⟩ | ⟨-, hc, r, rfl⟩ | ⟨ha, rs, r, rfl⟩ := execEnd_next h
  · simp [ha]
  · simp [hc]
  · simp [ha, closedFrame_ovfSeen]

theorem exec_ovfSeen {i : Instr} {s t : State} (hi : i ≠ .clear) (h : exec i s = .next t) :
    t.ovfSeen = true ↔ s.ovfSeen = true ∨
      (i = .endStream ∧ s.strmActive = true ∧ s.params.maxPulses < s.curPulses.toNat) ∨
      ∃ mark space, i = .pulse mark space ∧ 8000 ≤ space.toNat ∧
        s.params.maxPulses < min (s.curPulses.toNat + 1) (2 ^ 32 - 1) := by
  cases i with
  | nop => simp [← Host.Outcome.next.inj h]
  | pulse mark space => simp [execPulse_ovfSeen h]
  | endStream => simp [execEnd_ovfSeen h]
  | clear => exact absurd rfl hi
  | readReg addr => obtain ⟨v, -, rfl⟩ | ⟨-, rfl⟩ := execReadReg_cases h <;> simp

/-- Settles O14: a rejected word sets `ill_seen` alone, and a decoded one does what its command does. -/
theorem stickyFlagsChangeOnlyAsStated : Obligations.StickyFlagsChangeOnlyAsStated := by
  refine ⟨fun w s t h => ?_, fun s => ⟨_, reg_status s, statusReg_getLsbD s 2, statusReg_getLsbD s 3⟩,
    fun s => ⟨rfl, rfl⟩⟩
  obtain ⟨i, hd, hi⟩ | ⟨kind, r, hd, rfl⟩ := runCommand_cases h
  · simp only [hd, ne_eq, Except.ok.injEq, reduceCtorEq, exists_false, false_or]
    refine ⟨fun hne => ⟨exec_illSeen hne hi, exec_ovfSeen hne hi⟩, fun heq => ?_⟩
    subst heq
    obtain rfl := Host.Outcome.next.inj hi
    exact ⟨rfl, rfl⟩
  · simp [hd]

/-! ## The counters -/

theorem execPulse_totPulses {mark space : Duration} {s t : State} (h : execPulse mark space s = .next t) :
    t.totPulses = wrapIncr s.totPulses := by
  obtain ⟨-, rfl⟩ | ⟨-, rs, rfl⟩ := execPulse_next h <;> rfl

theorem execPulse_curPulses {mark space : Duration} {s t : State} (h : execPulse mark space s = .next t)
    (hspace : space.toNat < 8000) : t.curPulses = satIncr s.curPulses := by
  obtain ⟨-, rfl⟩ | ⟨hgap, -⟩ := execPulse_next h
  · rfl
  · exact absurd hgap (Nat.not_le_of_lt hspace)

/-- In the invariant, END leaves no frame open. -/
theorem execEnd_curPulses {s t : State} (hinv : s.Inv) (h : execEnd s = .next t) : t.curPulses = 0 := by
  obtain ⟨ha, r, rfl⟩ | ⟨-, hc, r, rfl⟩ | ⟨-, rs, r, rfl⟩ := execEnd_next h
  · exact (hinv.idle ha).1
  · exact hc
  · rfl

/-- Settles O15: each clause is what one command, the frame close or reset does to the counters. -/
theorem countersSaturateWrapAndReturnToZero : Obligations.CountersSaturateWrapAndReturnToZero := by
  refine ⟨fun s t mark space h => ⟨?_, fun hspace => ?_⟩, fun s t h => ?_,
    fun s t hinv h => ⟨execEnd_curPulses hinv h, execEnd_strmFrames h⟩, fun s t h => ?_,
    fun s => ⟨rfl, rfl, rfl, rfl⟩, fun s => ⟨reg_curPulses s, reg_strmFrames s, reg_totFrames s, reg_totPulses s⟩⟩
  · rw [execPulse_totPulses h, wrapIncr_toNat]
  · exact (congrArg BitVec.toNat (execPulse_curPulses h hspace)).trans (satIncr_toNat s.curPulses)
  · obtain ⟨rs, rfl⟩ := closeFrame_eq_closedFrame h
    exact ⟨rfl, wrapIncr_toNat s.strmFrames, wrapIncr_toNat s.totFrames⟩
  · obtain rfl := Host.Outcome.next.inj h
    exact ⟨rfl, rfl, rfl, rfl⟩

end Sys2Proof.Machine
end

section
/-! PROOFS (spec/20_memory.md R54 to R56, spec/70_reset_and_hazards.md R270, R272). What the host's next event makes of
a step, what a command leaves alone, and the result stream of a run without a reset. -/

namespace Sys2Proof.Machine

/-! ## A step, by the host's next event -/

theorem step_of_no_event {s : State} (hs : s.script = []) : step s = .next (moveWord s) := by
  rw [step, hs]

theorem step_of_take {s : State} {w : Word72} {ws : List Word72} {rest : List HostEvent}
    (hs : s.script = .take :: rest) (hq : s.outq = w :: ws) :
    step s = .next { s with outq := ws, taken := s.taken ++ [w], script := rest } := by
  rw [step, hs]
  simp only [hq]

theorem step_of_command_ready {s : State} {w : Word72} {rest : List HostEvent} (hs : s.script = .command w :: rest)
    (hp : s.pending = []) : step s = runCommand w { s with script := rest } := by
  rw [step, hs]
  exact if_pos ((ready_iff s).mpr hp)

theorem step_of_command_waiting {s : State} {w : Word72} {rest : List HostEvent} (hs : s.script = .command w :: rest)
    (hp : s.pending ≠ []) : step s = .next (moveWord s) := by
  rw [step, hs]
  exact if_neg fun hr => hp ((ready_iff s).mp hr)

/-- Settles O43: a ready block runs the offered word, and this word decodes to its command. -/
theorem stepRunsTheDecodedCommand : Obligations.StepRunsTheDecodedCommand := by
  intro s w i rest hs hp hd
  rw [step_of_command_ready hs hp, runCommand_of_ok hd]

/-- Settles O45: the step of a take whose FIFO has a head. -/
theorem takeDeliversTheHead : Obligations.TakeDeliversTheHead :=
  fun _ _ _ _ hs hq => step_of_take hs hq

/-! ## The hold -/

/-- A state that steps to itself stays for ever. -/
theorem run_of_step_self {s : State} (h : step s = .next s) (k : Nat) :
    Host.Core.run Sys2Proof.core k s = .next s := by
  induction k with
  | zero => exact run_zero s
  | succ k ih => rw [run_succ_of_next h, ih]

/-- With `outq` full, neither a command offered to a busy block nor a host with nothing left to do lets a step change
anything. -/
theorem step_holds_when_full {s : State} (hp : s.pending ≠ []) (hfull : s.params.outDepth ≤ s.outq.length)
    (hs : s.script = [] ∨ ∃ c rest, s.script = .command c :: rest) : step s = .next s := by
  have hmove : step s = .next (moveWord s) := by
    obtain hs | ⟨c, rest, hs⟩ := hs
    · exact step_of_no_event hs
    · exact step_of_command_waiting hs hp
  rw [hmove, moveWord_of_full hfull]

/-- In the invariant a full FIFO has a head, and it has room once the host has taken this word. -/
theorem take_makes_room {s : State} {rest : List HostEvent} (hinv : s.Inv) (hs : s.script = .take :: rest)
    (hfull : s.params.outDepth ≤ s.outq.length) :
    ∃ t : State, step s = .next t ∧ t.outq.length < t.params.outDepth ∧ t.pending = s.pending := by
  obtain ⟨⟨-, -, hdepth⟩, -, -, hfifo⟩ := hinv
  obtain ⟨w, ws, hq⟩ : ∃ w ws, s.outq = w :: ws := List.exists_cons_of_length_pos (hdepth.trans hfull)
  rw [hq, List.length_cons] at hfifo
  exact ⟨_, step_of_take hs hq, hfifo, rfl⟩

/-- Settles O44: a command that waits lets one word move, a full FIFO holds, and a take ends the hold. -/
theorem holdsWhilePendingWaits : Obligations.HoldsWhilePendingWaits := by
  refine ⟨fun s c w ws rest hs hp hroom => ?_,
    fun k s hp hfull hs => run_of_step_self (step_holds_when_full hp hfull hs) k,
    fun s rest hinv hs hfull => take_makes_room hinv hs hfull⟩
  have hne : s.pending ≠ [] := by simp [hp]
  rw [step_of_command_waiting hs hne, moveWord_of_room hp hroom]

/-! ## What a command leaves alone -/

theorem exec_params {i : Instr} {s t : State} (h : exec i s = .next t) : t.params = s.params := by
  cases i with
  | nop => rw [← Host.Outcome.next.inj h]
  | pulse mark space => obtain ⟨-, rfl⟩ | ⟨-, rs, rfl⟩ := execPulse_next h <;> rfl
  | endStream => obtain ⟨-, r, rfl⟩ | ⟨-, -, r, rfl⟩ | ⟨-, rs, r, rfl⟩ := execEnd_next h <;> rfl
  | clear => exact Host.Outcome.next.inj h ▸ clearStream_params s
  | readReg addr => obtain ⟨v, -, rfl⟩ | ⟨-, rfl⟩ := execReadReg_cases h <;> rfl

theorem runCommand_params {w : Word72} {s t : State} (h : runCommand w s = .next t) : t.params = s.params := by
  obtain ⟨i, -, hi⟩ | ⟨kind, r, -, rfl⟩ := runCommand_cases h
  · exact exec_params hi
  · rfl

/-- Settles O46: the command's quiet run gives its new words, the FIFO and the host are what a command ignores, and no
command changes the build. -/
theorem commandsOnlyAppendToPending : Obligations.CommandsOnlyAppendToPending := by
  intro w s t h
  have hparams := runCommand_params h
  obtain ⟨q, -, rfl⟩ := (runCommand_ignoresOutput w).eq_behind h
  exact ⟨behind_outq q s, hparams, behind_script q s, behind_taken q s, q.pending, behind_pending q s⟩

/-! ## The result stream -/

theorem runCommand_resultStream {w : Word72} {s t : State} (h : runCommand w s = .next t) :
    s.resultStream <+: t.resultStream := by
  obtain ⟨q, -, rfl⟩ := (runCommand_ignoresOutput w).eq_behind h
  exact ⟨q.pending, (resultStream_behind q s).symm⟩

/-- A step that is no reset uses up events from the front of the script alone, and its words come behind those of the
run so far. -/
theorem step_script_resultStream {s t : State} (hr : ∀ e ∈ s.script, e ≠ .reset) (h : step s = .next t) :
    t.script <:+ s.script ∧ s.resultStream <+: t.resultStream := by
  obtain ⟨hsuf, -, hsame⟩ | ⟨w, hscript, hw⟩ := step_silent_or_command hr h
  · exact ⟨hsuf, hsame.stream ▸ List.prefix_rfl⟩
  · exact ⟨hscript ▸ List.suffix_cons _ _, runCommand_resultStream (s := { s with script := t.script }) hw⟩

theorem run_resultStream (k : Nat) {s t : State} (hr : ∀ e ∈ s.script, e ≠ .reset)
    (h : Host.Core.run Sys2Proof.core k s = .next t) : s.resultStream <+: t.resultStream := by
  induction k generalizing s with
  | zero =>
    rw [run_zero] at h
    obtain rfl : s = t := Host.Outcome.next.inj h
    exact List.prefix_rfl
  | succ k ih =>
    obtain ⟨u, hu, hrun⟩ := run_succ_eq_next h
    obtain ⟨hsuf, hgrows⟩ := step_script_resultStream hr hu
    exact hgrows.trans (ih (fun e he => hr e (hsuf.mem he)) hrun)

/-- Settles O47, step by step: the words of a run without a reset are a prefix of those of any later state. -/
theorem resultStreamOnlyGrows : Obligations.ResultStreamOnlyGrows := by
  intro k s t hr h
  obtain ⟨new, hnew⟩ := run_resultStream k hr h
  exact ⟨new, hnew.symm⟩

end Sys2Proof.Machine
end

section
/-! PROOFS (spec/30_encoding.md R70 to R75). Command words: the decoder inverts the encoder, it accepts exactly the
words of the opcode table's rows, and assembled text decodes as written. -/

namespace Sys2Proof

/-! ## Decoder and encoder -/

theorem addr_in_operandB (addr : RegAddr) : (addr.setWidth 32).extractLsb' 0 8 = addr := by
  apply BitVec.eq_of_toNat_eq
  simp only [BitVec.extractLsb'_toNat, BitVec.toNat_setWidth, Nat.shiftRight_zero]
  omega

theorem zeros_above_addr (addr : RegAddr) : (addr.setWidth 32).extractLsb' 8 24 = 0 := by
  apply BitVec.eq_of_toNat_eq
  simp only [BitVec.extractLsb'_toNat, BitVec.toNat_setWidth, Nat.shiftRight_eq_div_pow, BitVec.ofNat_eq_ofNat,
    BitVec.toNat_ofNat]
  omega

/-- With B[31:8] zero, operand B is the zero-extended address. -/
theorem bField_eq_addr {w : Word72} (h : bHighField w = 0) : bField w = (addrField w).setWidth 32 := by
  rw [bHighField_eq] at h
  rw [addrField_eq]
  have hhigh := congrArg BitVec.toNat h
  apply BitVec.eq_of_toNat_eq
  simp only [BitVec.extractLsb'_toNat, BitVec.toNat_setWidth, Nat.shiftRight_eq_div_pow, BitVec.ofNat_eq_ofNat,
    BitVec.toNat_ofNat] at hhigh ⊢
  omega

theorem decode_encode (i : Instr) : decode (encode i) = .ok i := by
  cases i with
  | nop => rfl
  | pulse mark space =>
    simp [decode, encode, Instr.opcode, opField_commandWord, aField_commandWord, bField_commandWord]
  | endStream => rfl
  | clear => rfl
  | readReg addr =>
    simp [decode, encode, Instr.opcode, opField_commandWord, aField_commandWord, bField_commandWord, addrField_eq,
      bHighField_eq, addr_in_operandB, zeros_above_addr]

theorem eq_commandWord {w : Word72} {op : BitVec 8} {a b : BitVec 32} (hop : (opField w).toNat = op.toNat)
    (ha : aField w = a) (hb : bField w = b) : w = commandWord op a b := by
  rw [← BitVec.eq_of_toNat_eq hop, ← ha, ← hb, commandWord_fields]

/-- A word that decodes has the opcode of its command, and the operands it reads are all its other bits. -/
theorem eq_encode_of_decode {w : Word72} {i : Instr} (h : decode w = .ok i) : w = encode i := by
  unfold decode at h
  split at h
  case h_1 hop | h_3 hop | h_4 hop =>
    split at h <;> cases h
    rename_i hz
    exact eq_commandWord hop hz.1 hz.2
  case h_2 hop =>
    cases h
    exact eq_commandWord hop rfl rfl
  case h_5 hop =>
    split at h <;> cases h
    rename_i hz
    exact eq_commandWord hop hz.1 (bField_eq_addr hz.2)
  case h_6 => cases h

/-- Settles O1: the decoder reads every encoding back, and every word it accepts is an encoding. -/
theorem decodeInvertsEncode : Obligations.DecodeInvertsEncode :=
  fun _ i => ⟨eq_encode_of_decode, fun h => h ▸ decode_encode i⟩

/-- Settles O3: each word is the encoding of its instruction. -/
theorem sampleWordsDecodeToTheirCommands : Obligations.SampleWordsDecodeToTheirCommands :=
  ⟨decode_encode .nop, decode_encode (.pulse 562 8000), decode_encode .endStream, decode_encode .clear,
    decode_encode (.readReg 0x10)⟩

/-! ## The opcode table -/

/-- The encoded word of every instruction fits a row. -/
theorem encode_fits_row (i : Instr) : ∃ r ∈ opcodeRows, r.fits (encode i) = true := by
  cases i with
  | nop => exact Laws.EncodedWord.nop.2
  | pulse mark space => exact (Laws.EncodedWord.pulse mark space).2
  | endStream => exact Laws.EncodedWord.endStream.2
  | clear => exact Laws.EncodedWord.clear.2
  | readReg addr => exact (Laws.EncodedWord.readReg addr).2

/-- Where a row's mask covers a field, a word that fits the row has the pattern's value there. -/
theorem OpcodeRow.field_of_fits {r : OpcodeRow} {w : Word72} (h : r.fits w = true) {i k : Nat}
    (hm : r.mask.extractLsb' i k = BitVec.allOnes k) : w.extractLsb' i k = r.pattern.extractLsb' i k := by
  rw [← beq_iff_eq.mp h, BitVec.extractLsb'_and, hm, BitVec.and_allOnes]

theorem OpcodeRow.eq_pattern_of_fits {r : OpcodeRow} {w : Word72} (h : r.fits w = true)
    (hm : r.mask = BitVec.allOnes 72) : w = r.pattern := by
  rw [← beq_iff_eq.mp h, hm, BitVec.and_allOnes]

/-- Every row fixes the opcode. -/
theorem opField_of_fits {r : OpcodeRow} (hr : r ∈ opcodeRows) {w : Word72} (h : r.fits w = true) :
    opField w = opField r.pattern :=
  OpcodeRow.field_of_fits h ((by decide : ∀ r ∈ opcodeRows, r.mask.extractLsb' 64 8 = BitVec.allOnes 8) r hr)

theorem row_eq_of_opField_eq :
    ∀ r ∈ opcodeRows, ∀ q ∈ opcodeRows, opField r.pattern = opField q.pattern → r = q := by
  decide

/-- A row without operands fixes the whole word; PULSE's fixes the opcode alone; READ_REG's leaves the address free. -/
theorem decode_of_fits {r : OpcodeRow} (hr : r ∈ opcodeRows) {w : Word72} (h : r.fits w = true) :
    ∃ i, decode w = .ok i := by
  have hop := opField_of_fits hr h
  simp only [opcodeRows, List.mem_cons, List.not_mem_nil, or_false] at hr
  obtain rfl | rfl | rfl | rfl | rfl := hr
  · exact ⟨.nop, by rw [OpcodeRow.eq_pattern_of_fits h (by decide)]; rfl⟩
  · exact ⟨.pulse (aField w) (bField w), by rw [decode, hop]; rfl⟩
  · exact ⟨.endStream, by rw [OpcodeRow.eq_pattern_of_fits h (by decide)]; rfl⟩
  · exact ⟨.clear, by rw [OpcodeRow.eq_pattern_of_fits h (by decide)]; rfl⟩
  · have ha : aField w = 0 := OpcodeRow.field_of_fits h (by decide)
    have hb : bHighField w = 0 := OpcodeRow.field_of_fits h (by decide)
    exact ⟨.readReg (addrField w), by rw [decode, hop]; exact if_pos ⟨ha, hb⟩⟩

/-- Settles O2: a decoded word is an encoding, which fits its command's row; a fitting word decodes by the row; and two
rows differ in the opcode. -/
theorem decodeAcceptsExactlyTheTableRows : Obligations.DecodeAcceptsExactlyTheTableRows := by
  refine ⟨fun w => ⟨fun ⟨i, hi⟩ => ?_, fun ⟨r, hr, h⟩ => decode_of_fits hr h⟩, fun w r q hr hq h g => ?_⟩
  · rw [eq_encode_of_decode hi]
    exact encode_fits_row i
  · exact row_eq_of_opField_eq r hr q hq ((opField_of_fits hr h).symm.trans (opField_of_fits hq g))

end Sys2Proof

namespace Sys2Proof.Machine

/-! ## Command text -/

theorem assembleSource_of_too_wide {src : Source} (h : src.wf = false) :
    assembleSource src = .error .operandTooWide := by
  simp [assembleSource, h]

theorem assembleSource_pulse {mark space : Nat} (hm : mark < 2 ^ 32) (hs : space < 2 ^ 32) :
    assembleSource (.pulse mark space) = .ok (encode (.pulse (BitVec.ofNat 32 mark) (BitVec.ofNat 32 space))) :=
  if_pos (by simp only [Source.wf, hm, hs, decide_true, Bool.and_self])

theorem assembleSource_readReg {addr : Nat} (h : addr < 2 ^ 8) :
    assembleSource (.readReg addr) = .ok (encode (.readReg (BitVec.ofNat 8 addr))) :=
  if_pos (by simp only [Source.wf, h, decide_true])

/-- Settles O51: `Source.wf` refuses the wide operands, and the decoder inverts the encoder of the others. -/
theorem assembledCommandsDecodeAsWritten : Obligations.AssembledCommandsDecodeAsWritten := by
  refine ⟨fun mark space h => assembleSource_of_too_wide ?_, fun addr h => assembleSource_of_too_wide ?_,
    fun mark space hm hs => ?_, fun addr h => ?_, ⟨_, rfl, decode_encode .nop⟩, ⟨_, rfl, decode_encode .endStream⟩,
    ⟨_, rfl, decode_encode .clear⟩⟩
  · simp only [Source.wf, Bool.and_eq_false_iff, decide_eq_false_iff_not]
    omega
  · simp only [Source.wf, decide_eq_false_iff_not]
    omega
  · exact ⟨_, _, _, assembleSource_pulse hm hs, decode_encode _, Nat.mod_eq_of_lt hm, Nat.mod_eq_of_lt hs⟩
  · exact ⟨_, _, assembleSource_readReg h, decode_encode _, Nat.mod_eq_of_lt h⟩

/-- Settles O50: each row of the table is evaluated; the `.G` form and the assembly hold for every
pseudo-instruction. -/
theorem pseudoInstructionsExpandAsTabled : Obligations.PseudoInstructionsExpandAsTabled := by
  refine ⟨rfl, rfl, rfl, rfl, rfl, rfl, rfl, rfl, rfl, rfl, fun _ => rfl, fun _ => rfl, ?_⟩
  decide

end Sys2Proof.Machine
end

section
/-! PROOFS (spec/30_encoding.md R80 to R94). Where the fields of each result word lie, and the decoder that reads them
back. -/

namespace Sys2Proof.Machine

/-! ## The fields of each record's word -/

/-- Settles O4: extracting a field of a word passes over the fields below it and drops those above. -/
theorem resultWordFieldsLieAsLaidOut : Obligations.ResultWordFieldsLieAsLaidOut := by
  refine ⟨?_, ?_, ?_, ?_, ?_, ?_, ?_, ?_, ?_, ?_, by decide⟩
  all_goals
    simp (disch := omega) only [Record.word, resultWord, extract_append_low, extract_append_high, extract_whole,
      BitVec.getLsbD_append]
    simp

/-- The TYPE of each record (R81). -/
def Record.typeCode : Record → BitVec 8
  | .frameHdr .. => 0x01
  | .bits _ => 0x02
  | .rawPulse _ => 0x03
  | .aehaInfo .. => 0x04
  | .aehaOctets _ => 0x05
  | .necFields .. => 0x06
  | .sircFields .. => 0x07
  | .streamEnd .. => 0x08
  | .regValue .. => 0x09
  | .cmdError .. => 0x0A

theorem typeField_word (r : Record) : typeField r.word = r.typeCode := by
  cases r <;> exact typeField_resultWord _ _

theorem payloadField_extract (w : Word72) {i k : Nat} (h : i + k ≤ 64) :
    (payloadField w).extractLsb' i k = w.extractLsb' i k := by
  apply BitVec.eq_of_getLsbD_eq
  intro j hj
  simp [payloadField, (by omega : i + j < 64)]

theorem payloadField_getLsbD (w : Word72) {i : Nat} (h : i < 64) : (payloadField w).getLsbD i = w.getLsbD i := by
  simp [payloadField, h]

/-! ## Codes read back -/

@[simp] theorem Tag.ofCode_code (t : Tag) : Tag.ofCode t.code = some t := by cases t <;> rfl
@[simp] theorem Status.ofCode_code (t : Status) : Status.ofCode t.code = some t := by cases t <;> rfl
@[simp] theorem FieldId.ofCode_code (f : FieldId) : FieldId.ofCode f.code = some f := by cases f <;> rfl
@[simp] theorem SircVariant.ofCode_code (v : SircVariant) : SircVariant.ofCode v.code = some v := by cases v <;> rfl
@[simp] theorem StreamStatus.ofCode_code (t : StreamStatus) : StreamStatus.ofCode t.code = some t := by
  cases t <;> rfl
@[simp] theorem kindOfCode_kindCode (k : CmdErrorKind) : kindOfCode (kindCode k) = some k := by cases k <;> rfl

/-- The decoder reads each field at the place where the word has it, and each code gives its value back. -/
theorem readFields_word (r : Record) : Record.readFields r.word = some r := by
  obtain ⟨hHdr, hBits, hRaw, hInfo, hOctets, hNec, hSirc, hEnd, hReg, hErr, -⟩ := resultWordFieldsLieAsLaidOut
  simp (disch := omega) only [Record.readFields, typeField_word, payloadField_extract, payloadField_getLsbD]
  cases r with
  | frameHdr idx tag status field pc bc =>
    obtain ⟨-, hidx, htag, hstatus, hfield, -, hpc, hbc⟩ := hHdr idx tag status field pc bc
    simp [Record.typeCode, hidx, htag, hstatus, hfield, hpc, hbc]
  | bits p => exact congrArg (some ∘ Record.bits) (hBits p).2
  | rawPulse p =>
    obtain ⟨-, hmark, hspace⟩ := hRaw p
    simp [Record.typeCode, hmark, hspace]
  | aehaInfo count last stop =>
    obtain ⟨-, hcount, hlast, -, hstop, -⟩ := hInfo count last stop
    simp [-BitVec.getLsbD_eq_getElem, Record.typeCode, hcount, hlast, hstop]
  | aehaOctets lanes => exact congrArg (some ∘ Record.aehaOctets) (hOctets lanes).2
  | necFields c0 c1 d0 d1 stop =>
    obtain ⟨-, hc0, hc1, hd0, hd1, hstop, -⟩ := hNec c0 c1 d0 d1 stop
    simp [-BitVec.getLsbD_eq_getElem, Record.typeCode, hc0, hc1, hd0, hd1, hstop]
  | sircFields cmd addr ext variant =>
    obtain ⟨-, hcmd, -, haddr, hext, hvariant, -⟩ := hSirc cmd addr ext variant
    simp [Record.typeCode, hcmd, haddr, hext, hvariant]
  | streamEnd frames status =>
    obtain ⟨-, hframes, -, hstatus⟩ := hEnd frames status
    simp [Record.typeCode, hframes, hstatus]
  | regValue addr value =>
    obtain ⟨-, hvalue, haddr, -⟩ := hReg addr value
    simp [Record.typeCode, hvalue, haddr]
  | cmdError op kind addr =>
    obtain ⟨-, hop, hkind, -, haddr, -⟩ := hErr op kind addr
    simp [Record.typeCode, hop, hkind, haddr]

/-- Settles O5: the fields read back are the record's, and so its word is the word read. -/
theorem resultWordDecodesToItsRecord : Obligations.ResultWordDecodesToItsRecord := by
  intro r
  simp only [Record.ofWord, readFields_word, if_true]

end Sys2Proof.Machine
end

section
/-! PROOFS (spec/30_encoding.md R81, spec/93_implementation_defined.md I12). Every word that a step adds to the run is
the word of a record, and the decoder reads it back. -/

namespace Sys2Proof.Machine

theorem legalWord_word (r : Record) : legalWord r.word = true := by
  rw [legalWord, resultWordDecodesToItsRecord r, Option.isSome_some]

/-! ## What commands and steps emit -/

/-- The words `t` has pending are those of `s` and then the words of some records. -/
def EmitsRecords (s t : State) : Prop := ∃ rs : List Record, t.pending = s.pending ++ rs.map Record.word

theorem emitsRecords_same {s t : State} (h : t.pending = s.pending) : EmitsRecords s t := ⟨[], by simp [h]⟩

theorem execPulse_emitsRecords {mark space : Duration} {s t : State} (h : execPulse mark space s = .next t) :
    EmitsRecords s t := by
  obtain ⟨-, rfl⟩ | ⟨-, rs, rfl⟩ := execPulse_next h
  · exact emitsRecords_same rfl
  · exact ⟨rs, rfl⟩

theorem execEnd_emitsRecords {s t : State} (h : execEnd s = .next t) : EmitsRecords s t := by
  obtain ⟨-, r, rfl⟩ | ⟨-, -, r, rfl⟩ | ⟨-, rs, r, rfl⟩ := execEnd_next h
  · exact ⟨[r], rfl⟩
  · exact ⟨[r], rfl⟩
  · exact ⟨rs ++ [r], by simp [closedFrame]⟩

theorem exec_emitsRecords {i : Instr} {s t : State} (h : exec i s = .next t) : EmitsRecords s t := by
  cases i with
  | nop => exact emitsRecords_same (congrArg State.pending (Host.Outcome.next.inj h).symm)
  | pulse mark space => exact execPulse_emitsRecords h
  | endStream => exact execEnd_emitsRecords h
  | clear => exact Host.Outcome.next.inj h ▸ emitsRecords_same (clearStream_pending s)
  | readReg addr => obtain ⟨v, -, rfl⟩ | ⟨-, rfl⟩ := execReadReg_cases h <;> exact ⟨[_], rfl⟩

theorem runCommand_emitsRecords {w : Word72} {s t : State} (h : runCommand w s = .next t) : EmitsRecords s t := by
  obtain ⟨i, -, hi⟩ | ⟨kind, r, -, rfl⟩ := runCommand_cases h
  · exact exec_emitsRecords hi
  · exact ⟨[r], rfl⟩

/-- A command adds the words of records at the tail of the run's words. -/
theorem runCommand_resultStream_eq {w : Word72} {s t : State} (h : runCommand w s = .next t) :
    ∃ rs : List Record, t.resultStream = s.resultStream ++ rs.map Record.word := by
  obtain ⟨houtq, -, -, htaken, -⟩ := commandsOnlyAppendToPending w s t h
  obtain ⟨rs, hrs⟩ := runCommand_emitsRecords h
  exact ⟨rs, by simp [State.resultStream, houtq, htaken, hrs]⟩

/-- Every word of the run after a step was there before, or is the word of a record. -/
theorem step_resultStream_mem {s t : State} (h : step s = .next t) {w : Word72} (hw : w ∈ t.resultStream) :
    w ∈ s.resultStream ∨ ∃ r : Record, w = r.word := by
  obtain ⟨-, rfl⟩ | ⟨rest, -, rfl⟩ | ⟨rest, -, rfl⟩ | ⟨rest, v, vs, -, hq, rfl⟩ | ⟨rest, -, -, -, rfl⟩ |
    ⟨-, -, -, -, rfl⟩ | ⟨c, rest, -, -, hc⟩ | ⟨-, -, -, -, rfl⟩ := step_cases h
  · exact .inl ((sameRun_moveWord s).stream ▸ hw)
  · exact .inl (((sameRun_moveWord _).trans (sameRun_script s rest)).stream ▸ hw)
  · have htaken : w ∈ s.taken := by simpa [State.resultStream] using hw
    exact .inl (List.mem_append_left _ (List.mem_append_left _ htaken))
  · exact .inl ((sameRun_take hq rest).stream ▸ hw)
  · exact .inl hw
  · exact .inl ((sameRun_moveWord s).stream ▸ hw)
  · obtain ⟨rs, hrs⟩ := runCommand_resultStream_eq hc
    rw [hrs] at hw
    obtain hw | hw := List.mem_append.mp hw
    · exact .inl hw
    · obtain ⟨r, -, hr⟩ := List.mem_map.mp hw
      exact .inr ⟨r, hr.symm⟩
  · exact .inl ((sameRun_moveWord s).stream ▸ hw)

/-- Settles O12: the words that were there are legal, and so is every record's word. -/
theorem stepEmitsOnlyLegalWords : Obligations.StepEmitsOnlyLegalWords := by
  intro s t hlegal h w hw
  obtain hw | ⟨r, rfl⟩ := step_resultStream_mem h hw
  · exact hlegal w hw
  · exact legalWord_word r

end Sys2Proof.Machine
end

section
/-! PROOFS (spec/30_encoding.md R82, spec/42_frame_decoder.md R180, spec/60_exceptions.md R233). The frame record: one
FRAME_HDR whose fields tell the frame, and after it words of other types. -/

namespace Sys2Proof.Machine

/-! ## The record, by capacity and by the leader's tag -/

theorem frameRecord_overflow {max : Nat} {rest : List Pulse} (h : max < rest.length + 1) (k : BitVec 16)
    (leader : Pulse) : frameRecord max k (leader :: rest) = overflowRecord k leader (rest.length + 1) :=
  if_pos h

theorem frameRecord_fitting {max : Nat} {rest : List Pulse} (h : rest.length + 1 ≤ max) (k : BitVec 16)
    (leader : Pulse) : frameRecord max k (leader :: rest) = fittingRecord k leader rest :=
  if_neg (Nat.not_lt.mpr h)

theorem fittingRecord_unknown {leader : Pulse} (h : classify leader = .unknown) (k : BitVec 16) (rest : List Pulse) :
    fittingRecord k leader rest =
      .frameHdr k .unknown .unknownProtocol .noField (pulseCount (rest.length + 1)) 0 ::
        (leader :: rest).map Record.rawPulse := by
  simp only [fittingRecord, demodulate, h]

theorem fittingRecord_necRepeat {leader : Pulse} (h : classify leader = .necRepeat) (k : BitVec 16)
    (rest : List Pulse) :
    fittingRecord k leader rest = [.frameHdr k .necRepeat .ok .noField (pulseCount (rest.length + 1)) 0] := by
  simp only [fittingRecord, demodulate, h]

theorem fittingRecord_aeha {leader : Pulse} (h : classify leader = .aeha) (k : BitVec 16) (rest : List Pulse) :
    fittingRecord k leader rest =
      codedRecord k .aeha (rest.length + 1) (rest.map pdm) (decodeAeha (rest.map pdm)) := by
  simp only [fittingRecord, demodulate, h]

theorem fittingRecord_nec {leader : Pulse} (h : classify leader = .nec) (k : BitVec 16) (rest : List Pulse) :
    fittingRecord k leader rest =
      codedRecord k .nec (rest.length + 1) (rest.map pdm) (decodeNec (rest.map pdm)) := by
  simp only [fittingRecord, demodulate, h]

theorem fittingRecord_sirc {leader : Pulse} (h : classify leader = .sirc) (k : BitVec 16) (rest : List Pulse) :
    fittingRecord k leader rest =
      codedRecord k .sirc (rest.length + 1) (rest.map pwm) (decodeSirc (rest.map pwm)) := by
  simp only [fittingRecord, demodulate, h]

/-! ## No second header -/

/-- No record of the list has FRAME_HDR's TYPE. -/
def NoHeader (rs : List Record) : Prop := ∀ r ∈ rs, r.typeCode ≠ 0x01

theorem NoHeader.typeField_ne {rs : List Record} (h : NoHeader rs) : ∀ r ∈ rs, typeField r.word ≠ 0x01 :=
  fun r hr => typeField_word r ▸ h r hr

theorem NoHeader.append {rs qs : List Record} (h : NoHeader rs) (g : NoHeader qs) : NoHeader (rs ++ qs) :=
  fun r hr => (List.mem_append.mp hr).elim (h r) (g r)

theorem rawPulses_noHeader (ps : List Pulse) : NoHeader (ps.map Record.rawPulse) := by
  simp [NoHeader, Record.typeCode]

theorem bitsWords_noHeader (bits : List Bit) : NoHeader (bitsWords bits) := by
  simp [NoHeader, bitsWords, Record.typeCode]

theorem decodeAeha_noHeader (bits : List Bit) : NoHeader (decodeAeha bits).words := by
  unfold decodeAeha
  split <;> simp [NoHeader, aehaOctetWords, Record.typeCode]

theorem decodeNec_noHeader (bits : List Bit) : NoHeader (decodeNec bits).words := by
  unfold decodeNec
  split_ifs <;> simp [NoHeader, Record.typeCode]

theorem decodeSirc_noHeader (bits : List Bit) : NoHeader (decodeSirc bits).words := by
  unfold decodeSirc
  split_ifs <;> simp [NoHeader, Record.typeCode]

/-! ## The header's fields -/

theorem decodeAeha_field (bits : List Bit) : (decodeAeha bits).field = .noField := by
  unfold decodeAeha
  split <;> rfl

theorem decodeSirc_field (bits : List Bit) : (decodeSirc bits).field = .noField := by
  unfold decodeSirc
  split_ifs <;> rfl

/-- Settles O41: an overflowing frame is its header alone; one that fits has the record of its leader's tag. -/
theorem frameHeaderTellsTheFrame : Obligations.FrameHeaderTellsTheFrame := by
  intro max k leader rest n
  by_cases hmax : max < n
  · exact ⟨_, _, _, _, frameRecord_overflow hmax k leader, by simp, fun _ => ⟨rfl, rfl, rfl, rfl⟩,
      fun hle => absurd hmax (Nat.not_lt.mpr hle)⟩
  · have hfit := frameRecord_fitting (Nat.not_lt.mp hmax) k leader
    cases htag : classify leader with
    | unknown =>
      exact ⟨_, _, _, _, hfit.trans (fittingRecord_unknown htag k rest), (rawPulses_noHeader _).typeField_ne,
        fun hlt => absurd hlt hmax, fun _ => by simp⟩
    | necRepeat =>
      exact ⟨_, _, _, _, hfit.trans (fittingRecord_necRepeat htag k rest), by simp,
        fun hlt => absurd hlt hmax, fun _ => by simp⟩
    | aeha =>
      exact ⟨_, _, _, _, hfit.trans (fittingRecord_aeha htag k rest),
        ((bitsWords_noHeader _).append (decodeAeha_noHeader _)).typeField_ne,
        fun hlt => absurd hlt hmax, fun _ => by simp [decodeAeha_field, n]⟩
    | nec =>
      exact ⟨_, _, _, _, hfit.trans (fittingRecord_nec htag k rest),
        ((bitsWords_noHeader _).append (decodeNec_noHeader _)).typeField_ne,
        fun hlt => absurd hlt hmax, fun _ => by simp [n]⟩
    | sirc =>
      exact ⟨_, _, _, _, hfit.trans (fittingRecord_sirc htag k rest),
        ((bitsWords_noHeader _).append (decodeSirc_noHeader _)).typeField_ne,
        fun hlt => absurd hlt hmax, fun _ => by simp [decodeSirc_field, n]⟩

end Sys2Proof.Machine
end

section
/-! PROOFS (spec/40_segmenter.md R100 to R105). PULSE and END from a state of the invariant: what they store, which
frame record they emit, and what they leave. -/

namespace Sys2Proof.Machine

/-! ## PULSE -/

theorem execPulse_of_not_gap {mark space : Duration} (h : space.toNat < 8000) (s : State) :
    execPulse mark space s = .next (acceptPulse ⟨mark, space⟩ s) :=
  if_neg fun hgap => Nat.not_le_of_lt h ((isGap_iff ⟨mark, space⟩).mp hgap)

theorem execPulse_of_gap {mark space : Duration} (h : 8000 ≤ space.toNat) (s : State) :
    execPulse mark space s = closeFrame (acceptPulse ⟨mark, space⟩ s) :=
  if_pos ((isGap_iff ⟨mark, space⟩).mpr h)

theorem acceptPulse_of_inv {s : State} (h : s.Inv) (p : Pulse) :
    acceptPulse p s =
      { s with
        strmActive := true
        curPulses := BitVec.ofNat 32 (min (s.curPulses.toNat + 1) (2 ^ 32 - 1))
        fbuf := if s.curPulses.toNat < s.params.maxPulses then s.fbuf ++ [p] else s.fbuf
        totPulses := s.totPulses + 1 } := by
  rw [← acceptPulse_fbuf_of_inv h p, ← wrapIncr_eq_add]
  rfl

/-! ## Frame close in the invariant -/

theorem closeFrame_of_inv_fitting {s : State} (h : s.Inv) (hc : 0 < s.curPulses.toNat)
    (hm : s.curPulses.toNat ≤ s.params.maxPulses) :
    closeFrame s = .next (countFrame (emit (frameRecord s.params.maxPulses (frameIdx s) s.fbuf) s)) := by
  obtain ⟨leader, rest, -, ⟨-, hclose⟩ | ⟨hover, -⟩⟩ := closeFrame_of_inv h hc
  · exact hclose
  · exact absurd hover (Nat.not_lt_of_le hm)

theorem closeFrame_of_inv_overflow {s : State} (h : s.Inv) (hm : s.params.maxPulses < s.curPulses.toNat) :
    ∃ leader, s.fbuf.head? = some leader ∧
      closeFrame s =
        .next (countFrame (emit (overflowRecord (frameIdx s) leader s.curPulses.toNat) (setOvfSeen s))) := by
  obtain ⟨leader, rest, hf, ⟨hfit, -⟩ | ⟨-, hclose⟩⟩ := closeFrame_of_inv h (Nat.zero_lt_of_lt hm)
  · exact absurd hm (Nat.not_lt_of_le hfit)
  · exact ⟨leader, by rw [hf, List.head?_cons], hclose⟩

/-- PULSE_COUNT saturates long before the counter of the frame's pulses does. -/
theorem pulseCount_saturated (n : Nat) : pulseCount (min n (2 ^ 32 - 1)) = pulseCount n := by
  have hmin : satN 16 (min n (2 ^ 32 - 1)) = satN 16 n := by
    simp only [satN]
    omega
  rw [pulseCount, hmin, pulseCount]

/-- Settles O24: the threshold of the gap test is the constant that the register reads. -/
theorem gapThresholdIsInclusive : Obligations.GapThresholdIsInclusive :=
  ⟨isGap_iff, fun m => ⟨(isGap_iff ⟨m, 8000⟩).mpr (Nat.le_refl 8000), by simp [isGap]⟩, fun _ => rfl⟩

/-- Settles O25: PULSE accepts its pulse, which keeps the invariant, and a gap pulse then closes the frame, which fits
exactly where the buffer had room. -/
theorem pulseAppendsAndClosesAtTheGap : Obligations.PulseAppendsAndClosesAtTheGap := by
  refine ⟨fun s mark space h hspace => ?_, fun s mark space h hspace hroom => ?_,
    fun s mark space h hspace hfull => ?_, fun s mark space => runCommand_of_ok (decode_encode (.pulse mark space)) s⟩
  · exact (execPulse_of_not_gap hspace s).trans (congrArg _ (acceptPulse_of_inv h _))
  · have hinv := acceptPulse_keeps_inv h ⟨mark, space⟩
    have hcount : (acceptPulse ⟨mark, space⟩ s).curPulses.toNat = s.curPulses.toNat + 1 := by
      have hmax := h.params.2.1
      rw [acceptPulse_curPulses, satIncr_toNat]
      omega
    have hclose := closeFrame_of_inv_fitting hinv (by omega) (hcount.trans_le hroom)
    refine (execPulse_of_gap hspace s).trans (hclose.trans ?_)
    rw [acceptPulse_fbuf_of_inv h, if_pos hroom, ← wrapIncr_eq_add, ← wrapIncr_eq_add, ← wrapIncr_eq_add]
    rfl
  · have hinv := acceptPulse_keeps_inv h ⟨mark, space⟩
    have hcount := satIncr_toNat s.curPulses
    have hover : s.params.maxPulses < (satIncr s.curPulses).toNat := by
      have hmax := h.params.2.1
      omega
    obtain ⟨leader, hhead, hclose⟩ := closeFrame_of_inv_overflow hinv hover
    rw [acceptPulse_fbuf_of_inv h, if_neg (Nat.not_lt_of_le hfull)] at hhead
    refine ⟨leader, hhead, (execPulse_of_gap hspace s).trans (hclose.trans ?_)⟩
    rw [overflowRecord, acceptPulse_curPulses, hcount, pulseCount_saturated, ← wrapIncr_eq_add, ← wrapIncr_eq_add,
      ← wrapIncr_eq_add]
    rfl

/-! ## END -/

theorem execEnd_of_inactive {s : State} (h : s.strmActive = false) :
    execEnd s = .next (finishStream (emit [.streamEnd 0 .inputIsEmpty] s)) := by
  simp [execEnd, h]

theorem execEnd_of_no_frame {s : State} (h : s.strmActive = true) (hc : s.curPulses = 0) :
    execEnd s = .next (finishStream (emit [.streamEnd s.strmFrames .ok] s)) := by
  simp only [execEnd, h, closeOpenFrame, hc, if_true, andThen_next]

theorem execEnd_of_open_frame {s u : State} (h : s.strmActive = true) (hc : s.curPulses ≠ 0)
    (hu : closeFrame s = .next u) : execEnd s = .next (finishStream (emit [.streamEnd u.strmFrames .ok] u)) := by
  simp only [execEnd, h, closeOpenFrame, if_neg hc, hu, if_true, andThen_next]

/-- An END word with a non-zero operand has a reserved bit set (spec/30_encoding.md R73). -/
theorem decode_end_reserved {w : Word72} (hop : opField w = 0x02) (h : aField w ≠ 0 ∨ bField w ≠ 0) :
    decode w = .error .reservedNonzero := by
  have hzero : ¬ (aField w = 0 ∧ bField w = 0) := fun hz => h.elim (· hz.1) (· hz.2)
  rw [decode, hop]
  exact if_neg hzero

/-- Settles O26: the four cases of END are an empty stream, a stream with no frame open, and one whose open frame closes
within the capacity or past it. -/
theorem endClosesTheFrameAndReportsTheStream : Obligations.EndClosesTheFrameAndReportsTheStream := by
  refine ⟨fun s ha => execEnd_of_inactive ha, fun s ha hc => execEnd_of_no_frame ha hc, fun s h ha hc hm => ?_,
    fun s h ha hm => ?_, runCommand_of_ok (decode_encode .endStream), fun s w hop hz => ?_⟩
  · have hpos : 0 < s.curPulses.toNat := Nat.pos_of_ne_zero fun h0 => hc (BitVec.eq_of_toNat_eq h0)
    refine (execEnd_of_open_frame ha hc (closeFrame_of_inv_fitting h hpos hm)).trans ?_
    simp [finishStream, countFrame, emit, frameIdx, wrapIncr_eq_add]
  · obtain ⟨leader, hhead, hclose⟩ := closeFrame_of_inv_overflow h hm
    have hc : s.curPulses ≠ 0 := fun h0 => by simp [h0] at hm
    refine ⟨leader, hhead, (execEnd_of_open_frame ha hc hclose).trans ?_⟩
    simp [finishStream, countFrame, emit, setOvfSeen, frameIdx, wrapIncr_eq_add, overflowRecord, pulseCount, satN]
  · rw [runCommand_of_error (decode_end_reserved hop hz), rejectWord_eq, hop]
    rfl

/-- Settles O27: the word is STREAM_END's, written out. -/
theorem endOfEmptyStreamReportsInputIsEmpty : Obligations.EndOfEmptyStreamReportsInputIsEmpty :=
  fun _ ha => ⟨_, execEnd_of_inactive ha, rfl⟩

end Sys2Proof.Machine
end

section
/-! PROOFS (spec/40_segmenter.md R110, R111). The batch segmenter's frames, as those cut off at a gap pulse and the
pulses after the last cut. -/

namespace Sys2Proof.Machine

/-! ## Cut frames and open pulses -/

/-- The frames that the gap pulses of `ps` cut off, with `cur` the pulses since the last cut before `ps`. -/
def cutFrames (cur : List Pulse) : List Pulse → List (List Pulse)
  | [] => []
  | p :: ps => if isGap p then (cur ++ [p]) :: cutFrames [] ps else cutFrames (cur ++ [p]) ps

/-- The pulses since the last cut, after `ps`. -/
def openPulses (cur : List Pulse) : List Pulse → List Pulse
  | [] => cur
  | p :: ps => if isGap p then openPulses [] ps else openPulses (cur ++ [p]) ps

@[simp] theorem cutFrames_nil (cur : List Pulse) : cutFrames cur [] = [] := rfl
@[simp] theorem openPulses_nil (cur : List Pulse) : openPulses cur [] = cur := rfl

theorem cutFrames_gap {p : Pulse} (h : isGap p = true) (cur ps : List Pulse) :
    cutFrames cur (p :: ps) = (cur ++ [p]) :: cutFrames [] ps := if_pos h

theorem cutFrames_not_gap {p : Pulse} (h : isGap p = false) (cur ps : List Pulse) :
    cutFrames cur (p :: ps) = cutFrames (cur ++ [p]) ps := if_neg (by simp [h])

theorem openPulses_gap {p : Pulse} (h : isGap p = true) (cur ps : List Pulse) :
    openPulses cur (p :: ps) = openPulses [] ps := if_pos h

theorem openPulses_not_gap {p : Pulse} (h : isGap p = false) (cur ps : List Pulse) :
    openPulses cur (p :: ps) = openPulses (cur ++ [p]) ps := if_neg (by simp [h])

/-- The segmenter's frames are the cut ones, and what is left open where it is not empty. -/
theorem segmentFrom_eq_cut_and_open (cur ps : List Pulse) :
    segmentFrom cur ps = cutFrames cur ps ++ if openPulses cur ps = [] then [] else [openPulses cur ps] := by
  induction ps generalizing cur with
  | nil => rfl
  | cons p ps ih =>
    cases hp : isGap p with
    | true => simp [segmentFrom, hp, ih, cutFrames_gap hp, openPulses_gap hp]
    | false => simp [segmentFrom, hp, ih, cutFrames_not_gap hp, openPulses_not_gap hp]

theorem flatten_cutFrames (cur ps : List Pulse) : (cutFrames cur ps).flatten ++ openPulses cur ps = cur ++ ps := by
  induction ps generalizing cur with
  | nil => simp
  | cons p ps ih =>
    cases hp : isGap p with
    | true => simp [cutFrames_gap hp, openPulses_gap hp, ih]
    | false => simp [cutFrames_not_gap hp, openPulses_not_gap hp, ih]

theorem length_cutFrames (cur ps : List Pulse) : (cutFrames cur ps).length = ps.countP isGap := by
  induction ps generalizing cur with
  | nil => rfl
  | cons p ps ih =>
    cases hp : isGap p with
    | true => simp [cutFrames_gap hp, hp, ih]
    | false => simp [cutFrames_not_gap hp, hp, ih]

/-- Pulses without a gap among them stay open, and cut nothing off. -/
theorem cut_and_open_of_no_gap {ps : List Pulse} (h : ∀ p ∈ ps, isGap p = false) (cur : List Pulse) :
    cutFrames cur ps = [] ∧ openPulses cur ps = cur ++ ps := by
  induction ps generalizing cur with
  | nil => simp
  | cons p ps ih =>
    obtain ⟨hp, hps⟩ := List.forall_mem_cons.mp h
    rw [cutFrames_not_gap hp, openPulses_not_gap hp, List.append_cons cur p ps]
    exact ih hps (cur ++ [p])

/-- What is open is left open exactly where the last pulse is no gap pulse. -/
theorem openPulses_concat (cur ps : List Pulse) (p : Pulse) :
    openPulses cur (ps ++ [p]) = if isGap p then [] else openPulses cur ps ++ [p] := by
  induction ps generalizing cur with
  | nil => rfl
  | cons q ps ih =>
    cases hq : isGap q with
    | true => rw [List.cons_append, openPulses_gap hq, openPulses_gap hq, ih]
    | false => rw [List.cons_append, openPulses_not_gap hq, openPulses_not_gap hq, ih]

/-! ## Where the gap pulses of a frame stand -/

/-- The frame ends with its only gap pulse. -/
def EndsAtOnlyGap (f : List Pulse) : Prop :=
  ∃ front gap, f = front ++ [gap] ∧ 8000 ≤ gap.space.toNat ∧ ∀ p ∈ front, p.space.toNat < 8000

theorem EndsAtOnlyGap.ne_nil {f : List Pulse} (h : EndsAtOnlyGap f) : f ≠ [] := by
  obtain ⟨front, gap, rfl, -⟩ := h
  exact List.append_ne_nil_of_right_ne_nil front (List.cons_ne_nil gap [])

theorem EndsAtOnlyGap.dropLast_short {f : List Pulse} (h : EndsAtOnlyGap f) :
    ∀ p ∈ f.dropLast, p.space.toNat < 8000 := by
  obtain ⟨front, gap, rfl, -, hfront⟩ := h
  rwa [List.dropLast_concat]

theorem not_isGap_iff (p : Pulse) : isGap p = false ↔ p.space.toNat < 8000 := by
  rw [isGap, decide_eq_false_iff_not, timing_gapThreshold, Nat.not_le]

/-- With no gap pulse open before `ps`, each cut frame ends with its only gap pulse, and none is open after `ps`. -/
theorem cutFrames_endAtGap_openPulses_short {cur : List Pulse} (hcur : ∀ p ∈ cur, p.space.toNat < 8000) (ps : List Pulse) :
    (∀ f ∈ cutFrames cur ps, EndsAtOnlyGap f) ∧ ∀ p ∈ openPulses cur ps, p.space.toNat < 8000 := by
  induction ps generalizing cur with
  | nil => exact ⟨List.forall_mem_nil _, hcur⟩
  | cons p ps ih =>
    cases hp : isGap p with
    | true =>
      rw [cutFrames_gap hp, openPulses_gap hp]
      obtain ⟨hcut, hopen⟩ := ih (List.forall_mem_nil _)
      exact ⟨List.forall_mem_cons.mpr ⟨⟨cur, p, rfl, (isGap_iff p).mp hp, hcur⟩, hcut⟩, hopen⟩
    | false =>
      rw [cutFrames_not_gap hp, openPulses_not_gap hp]
      exact ih (List.forall_mem_append.mpr ⟨hcur, List.forall_mem_singleton.mpr ((not_isGap_iff p).mp hp)⟩)

/-! ## The segmenter's frames -/

/-- A frame of the segmenter is cut off at a gap, or is what is open at the end. -/
theorem cut_or_open_of_mem_segmentFrom {cur ps f : List Pulse} (h : f ∈ segmentFrom cur ps) :
    f ∈ cutFrames cur ps ∨ (openPulses cur ps ≠ [] ∧ f = openPulses cur ps) := by
  rw [segmentFrom_eq_cut_and_open, List.mem_append] at h
  obtain h | h := h
  · exact .inl h
  · split at h
    · exact absurd h List.not_mem_nil
    · rename_i hne
      exact .inr ⟨hne, List.mem_singleton.mp h⟩

/-- All frames but the last are cut off at a gap. -/
theorem dropLast_segmentFrom_subset (cur ps : List Pulse) : (segmentFrom cur ps).dropLast ⊆ cutFrames cur ps := by
  rw [segmentFrom_eq_cut_and_open]
  split
  · rw [List.append_nil]
    exact List.dropLast_subset _
  · rw [List.dropLast_concat]
    exact List.Subset.refl _

theorem flatten_segmentFrom (cur ps : List Pulse) : (segmentFrom cur ps).flatten = cur ++ ps := by
  rw [segmentFrom_eq_cut_and_open, ← flatten_cutFrames]
  split
  · rename_i hopen
    simp [hopen]
  · simp

/-- There is a frame for each gap pulse, and one more where the last pulse is none. -/
theorem length_segmentFrom_nil (ps : List Pulse) :
    (segmentFrom [] ps).length = ps.countP isGap + if ps.getLast?.any (fun p => !isGap p) then 1 else 0 := by
  rw [segmentFrom_eq_cut_and_open, List.length_append, length_cutFrames]
  obtain rfl | ⟨front, p, rfl⟩ := ps.eq_nil_or_concat'
  · rfl
  · rw [openPulses_concat, List.getLast?_concat]
    cases hp : isGap p <;> simp [hp]

/-- Settles O30: the frames are those cut off at the gap pulses, and one more for what is open at the end. -/
theorem segmentedFramesPartitionThePulses : Obligations.SegmentedFramesPartitionThePulses := by
  intro ps fs h
  obtain ⟨-, rfl⟩ : ps ≠ [] ∧ segmentFrom [] ps = fs := by simpa [segmentPulses] using h
  obtain ⟨hcut, hopen⟩ := cutFrames_endAtGap_openPulses_short (List.forall_mem_nil _) ps
  refine ⟨fun f hf => ?_, flatten_segmentFrom [] ps, fun f hf => hcut f (dropLast_segmentFrom_subset [] ps hf),
    fun f hf => ?_, length_segmentFrom_nil ps⟩
  · obtain hf | ⟨hne, rfl⟩ := cut_or_open_of_mem_segmentFrom hf
    · exact (hcut f hf).ne_nil
    · exact hne
  · obtain hf | ⟨-, rfl⟩ := cut_or_open_of_mem_segmentFrom (List.mem_of_getLast? hf)
    · exact (hcut f hf).dropLast_short
    · exact fun p hp => hopen p (List.mem_of_mem_dropLast hp)

end Sys2Proof.Machine
end

section
/-! PROOFS (spec/40_segmenter.md R106, R110). A stream and the batch segmenter side by side: the block that has cut `k`
frames off and has `cur` open, and the segmenter's loop with `cur` open, do the same with each next command. -/

namespace Sys2Proof.Machine

/-! ## The words of a stream -/

/-- Whether a word is a stream's own: it is neither READ_REG's nor a rejection's. -/
def streamWord (w : Word72) : Bool := typeField w != 0x09 && typeField w != 0x0A

theorem streamWord_eq_false_iff (w : Word72) : streamWord w = false ↔ typeField w = 0x09 ∨ typeField w = 0x0A := by
  rw [streamWord, Bool.and_eq_false_iff, bne_eq_false_iff_eq, bne_eq_false_iff_eq]

/-- The words that `t` has pending behind those of `s`, but for the other commands' words, are those of `rs`. -/
def EmitsOfStream (rs : List Record) (s t : State) : Prop :=
  ∃ new, t.pending = s.pending ++ new ∧ new.filter streamWord = rs.map Record.word

theorem EmitsOfStream.trans {rs qs : List Record} {s t u : State} (h : EmitsOfStream rs s t)
    (g : EmitsOfStream qs t u) : EmitsOfStream (rs ++ qs) s u := by
  obtain ⟨new, ht, hnew⟩ := h
  obtain ⟨more, hu, hmore⟩ := g
  exact ⟨new ++ more, by rw [hu, ht, List.append_assoc], by rw [List.filter_append, hnew, hmore, List.map_append]⟩

/-- Every record has a word of the stream's own. -/
def OfStream (rs : List Record) : Prop := ∀ r ∈ rs, streamWord r.word = true

theorem OfStream.emits {rs : List Record} (h : OfStream rs) {s t : State}
    (ht : t.pending = s.pending ++ rs.map Record.word) : EmitsOfStream rs s t :=
  ⟨_, ht, List.filter_eq_self.mpr (List.forall_mem_map.mpr h)⟩

theorem OfStream.append {rs qs : List Record} (h : OfStream rs) (g : OfStream qs) : OfStream (rs ++ qs) :=
  List.forall_mem_append.mpr ⟨h, g⟩

@[simp] theorem streamWord_word (r : Record) :
    streamWord r.word = (r.typeCode != 0x09 && r.typeCode != 0x0A) := by
  rw [streamWord, typeField_word]

theorem decodeAeha_ofStream (bits : List Bit) : OfStream (decodeAeha bits).words := by
  unfold decodeAeha
  split <;> simp [OfStream, aehaOctetWords, Record.typeCode]

theorem decodeNec_ofStream (bits : List Bit) : OfStream (decodeNec bits).words := by
  unfold decodeNec
  split_ifs <;> simp [OfStream, Record.typeCode]

theorem decodeSirc_ofStream (bits : List Bit) : OfStream (decodeSirc bits).words := by
  unfold decodeSirc
  split_ifs <;> simp [OfStream, Record.typeCode]

theorem codedRecord_ofStream {d : Decoded} (h : OfStream d.words) (k : BitVec 16) (tag : Tag) (n : Nat)
    (bits : List Bit) : OfStream (codedRecord k tag n bits d) := by
  have hbits : OfStream (bitsWords bits) := by simp [OfStream, bitsWords, Record.typeCode]
  exact List.forall_mem_cons.mpr ⟨streamWord_word _, hbits.append h⟩

theorem fittingRecord_ofStream (k : BitVec 16) (leader : Pulse) (rest : List Pulse) :
    OfStream (fittingRecord k leader rest) := by
  cases htag : classify leader with
  | unknown => simp [fittingRecord_unknown htag, OfStream, Record.typeCode]
  | necRepeat => simp [fittingRecord_necRepeat htag, OfStream, Record.typeCode]
  | aeha => exact fittingRecord_aeha htag k rest ▸ codedRecord_ofStream (decodeAeha_ofStream _) _ _ _ _
  | nec => exact fittingRecord_nec htag k rest ▸ codedRecord_ofStream (decodeNec_ofStream _) _ _ _ _
  | sirc => exact fittingRecord_sirc htag k rest ▸ codedRecord_ofStream (decodeSirc_ofStream _) _ _ _ _

theorem frameRecord_ofStream (max : Nat) (k : BitVec 16) (f : List Pulse) : OfStream (frameRecord max k f) := by
  unfold frameRecord
  split
  · exact List.forall_mem_nil _
  · split
    · simp [OfStream, overflowRecord, Record.typeCode]
    · exact fittingRecord_ofStream k _ _

theorem frameRecordsFrom_append (max k : Nat) (fs gs : List (List Pulse)) :
    frameRecordsFrom max k (fs ++ gs) = frameRecordsFrom max k fs ++ frameRecordsFrom max (k + fs.length) gs := by
  induction fs generalizing k with
  | nil => rfl
  | cons f fs ih =>
    simp only [List.cons_append, frameRecordsFrom, ih, List.append_assoc, List.length_cons, Nat.add_assoc,
      Nat.add_comm 1]

theorem frameRecordsFrom_ofStream (max k : Nat) (fs : List (List Pulse)) : OfStream (frameRecordsFrom max k fs) := by
  induction fs generalizing k with
  | nil => exact List.forall_mem_nil _
  | cons f fs ih => exact (frameRecord_ofStream max _ f).append (ih (k + 1))

theorem streamEnd_ofStream (n : BitVec 32) (status : StreamStatus) : OfStream [.streamEnd n status] :=
  List.forall_mem_singleton.mpr (streamWord_word _)

theorem frameRecordsFrom_singleton (max k : Nat) (f : List Pulse) :
    frameRecordsFrom max k [f] = frameRecord max (BitVec.ofNat 16 k) f := List.append_nil _

/-! ## The block within a stream -/

/-- The block, of capacity `max`, has closed `k` frames of the stream and has the pulses `cur` open: it holds as many of
them as it has room for, and counts them up to saturation (R103). -/
structure InStream (max k : Nat) (cur : List Pulse) (s : State) : Prop where
  inv    : s.Inv
  cap    : s.params.maxPulses = max
  idle   : s.strmActive = false ↔ k = 0 ∧ cur = []
  frames : s.strmFrames = BitVec.ofNat 32 k
  count  : s.curPulses.toNat = min cur.length (2 ^ 32 - 1)
  stored : s.fbuf = cur.take max

theorem State.Inv.inStream {s : State} (h : s.Inv) (ha : s.strmActive = false) :
    InStream s.params.maxPulses 0 [] s := by
  obtain ⟨hc, hf⟩ := h.idle ha
  have hb := h.buffer
  rw [hc] at hb
  exact ⟨h, rfl, by simp [ha], hf, by simp [hc], by simpa using hb⟩

theorem InStream.frameIdx {max k : Nat} {cur : List Pulse} {s : State} (h : InStream max k cur s) :
    frameIdx s = BitVec.ofNat 16 k := by
  rw [Machine.frameIdx, h.frames, BitVec.setWidth_ofNat_of_le (by decide)]

theorem InStream.strmActive {max k : Nat} {cur : List Pulse} {s : State} (h : InStream max k cur s)
    (hk : ¬ (k = 0 ∧ cur = [])) : s.strmActive = true := by
  rwa [← h.idle, Bool.not_eq_false] at hk

theorem InStream.acceptPulse {max k : Nat} {cur : List Pulse} {s : State} (h : InStream max k cur s) (p : Pulse) :
    InStream max k (cur ++ [p]) (acceptPulse p s) := by
  obtain ⟨hinv, hcap, -, hframes, hcount, hstored⟩ := h
  have hmax := hinv.params.2.1
  refine ⟨acceptPulse_keeps_inv hinv p, hcap, by simp, hframes, ?_, ?_⟩
  · rw [acceptPulse_curPulses, satIncr_toNat, hcount, List.length_append, List.length_singleton]
    omega
  · rw [acceptPulse_fbuf_of_inv hinv, hstored, hcap, hcount]
    split
    · rw [List.take_of_length_le (by omega), List.take_of_length_le (by simp; omega)]
    · rw [List.take_append_of_le_length (by omega)]

/-- An open frame closes with the record of all its pulses, those past the capacity counted but not read. -/
theorem InStream.closeFrame {max k : Nat} {cur : List Pulse} {s : State} (h : InStream max k cur s) (hcur : cur ≠ []) :
    closeFrame s = .next (closedFrame (frameRecord max (BitVec.ofNat 16 k) cur) s) := by
  have hidx := h.frameIdx
  obtain ⟨hinv, rfl, -, -, hcount, hstored⟩ := h
  have hmax := hinv.params.2.1
  by_cases hm : s.params.maxPulses < s.curPulses.toNat
  · obtain ⟨leader, hhead, hclose⟩ := closeFrame_of_inv_overflow hinv hm
    obtain ⟨first, rest, rfl⟩ := List.exists_cons_of_ne_nil hcur
    obtain rfl : first = leader := by
      rw [hstored, List.head?_take] at hhead
      split at hhead
      · simp at hhead
      · exact Option.some.inj hhead
    rw [hclose, frameRecord_overflow (by rw [List.length_cons] at hcount; omega), closedFrame, decide_eq_true hm,
      Bool.or_true, hidx, hcount, overflowRecord, pulseCount_saturated]
    rfl
  · have hpos : 0 < cur.length := List.length_pos_of_ne_nil hcur
    rw [closeFrame_of_inv_fitting hinv (by omega) (by omega), hidx, hstored, List.take_of_length_le (by omega),
      closedFrame, decide_eq_false hm, Bool.or_false]

theorem InStream.closedFrame {max k : Nat} {cur : List Pulse} {s : State} (h : InStream max k cur s)
    (ha : s.strmActive = true) (rs : List Record) : InStream max (k + 1) [] (closedFrame rs s) := by
  have hframes : wrapIncr s.strmFrames = BitVec.ofNat 32 (k + 1) := by
    rw [wrapIncr_eq_add, h.frames, BitVec.ofNat_add]
    rfl
  exact ⟨closedFrame_keeps_inv h.inv ha rs, h.cap, by simp [Machine.closedFrame, ha], hframes, rfl, List.take_nil.symm⟩

/-! ## One command of a stream -/

/-- A pulse that is no gap pulse stays open. -/
theorem InStream.pulse_of_not_gap {max k : Nat} {cur : List Pulse} {s : State} (h : InStream max k cur s)
    {mark space : Duration} (hgap : isGap ⟨mark, space⟩ = false) :
    ∃ t, exec (.pulse mark space) s = .next t ∧ InStream max k (cur ++ [⟨mark, space⟩]) t ∧ EmitsOfStream [] s t :=
  ⟨_, execPulse_of_not_gap ((not_isGap_iff _).mp hgap) s, h.acceptPulse _, [], (List.append_nil _).symm, rfl⟩

/-- A gap pulse closes the frame that it ends. -/
theorem InStream.pulse_of_gap {max k : Nat} {cur : List Pulse} {s : State} (h : InStream max k cur s)
    {mark space : Duration} (hgap : isGap ⟨mark, space⟩ = true) :
    ∃ t, exec (.pulse mark space) s = .next t ∧ InStream max (k + 1) [] t ∧
      t.pending = s.pending ++ (frameRecord max (BitVec.ofNat 16 k) (cur ++ [⟨mark, space⟩])).map Record.word := by
  have ha := h.acceptPulse ⟨mark, space⟩
  have hclose := ha.closeFrame (List.append_ne_nil_of_right_ne_nil cur (List.cons_ne_nil _ []))
  exact ⟨_, (execPulse_of_gap ((isGap_iff ⟨mark, space⟩).mp hgap) s).trans hclose, ha.closedFrame rfl _, rfl⟩

/-- The word of a command that neither delivers a pulse nor ends a stream: NOP, READ_REG, or a rejected word. -/
def BesideStream (w : Word72) : Prop :=
  decode w = .ok .nop ∨ (∃ a, decode w = .ok (.readReg a)) ∨ ∃ k, decode w = .error k

/-- Such a command emits REG_VALUE and CMD_ERROR words alone, and may set `ill_seen`. -/
theorem runCommand_of_besideStream {w : Word72} (h : BesideStream w) (s : State) :
    ∃ rs ill, runCommand w s = .next (emit rs { s with illSeen := ill }) ∧
      ∀ r ∈ rs, streamWord r.word = false := by
  obtain hd | ⟨a, hd⟩ | ⟨kind, hd⟩ := h
  · refine ⟨[], s.illSeen, ?_, List.forall_mem_nil _⟩
    rw [runCommand_of_ok hd, emit, List.map_nil, List.append_nil]
    rfl
  · rw [runCommand_of_ok hd]
    cases hr : reg s a with
    | some v => exact ⟨[.regValue a v], s.illSeen, by simp [exec, execReadReg, hr], by simp [Record.typeCode]⟩
    | none =>
      exact ⟨[_], true, by rw [exec, execReadReg, hr]; rfl, List.forall_mem_singleton.mpr (streamWord_word _)⟩
  · rw [runCommand_of_error hd, rejectWord_eq]
    exact ⟨[_], true, rfl, List.forall_mem_singleton.mpr (streamWord_word _)⟩

theorem InStream.besideStream {max k : Nat} {cur : List Pulse} {s : State} (h : InStream max k cur s) {w : Word72}
    (hw : BesideStream w) : ∃ t, runCommand w s = .next t ∧ InStream max k cur t ∧ EmitsOfStream [] s t := by
  obtain ⟨rs, ill, ht, hrs⟩ := runCommand_of_besideStream hw s
  obtain ⟨⟨hwf, hidle, hb, hfifo⟩, hcap, hidle', hframes, hcount, hstored⟩ := h
  refine ⟨_, ht, ⟨⟨hwf, hidle, hb, hfifo⟩, hcap, hidle', hframes, hcount, hstored⟩, rs.map Record.word, rfl, ?_⟩
  exact List.filter_eq_nil_iff.mpr (List.forall_mem_map.mpr fun r hr => Bool.eq_false_iff.mp (hrs r hr))

/-- A word that ends no stream delivers a pulse or stands beside the stream. -/
theorem pulse_or_besideStream {w : Word72} (h : decode w ≠ .ok .endStream ∧ decode w ≠ .ok .clear) :
    (∃ mark space, decode w = .ok (.pulse mark space)) ∨ BesideStream w := by
  cases hd : decode w with
  | error kind => exact .inr (.inr (.inr ⟨kind, hd⟩))
  | ok i =>
    cases i with
    | nop => exact .inr (.inl hd)
    | pulse mark space => exact .inl ⟨mark, space, rfl⟩
    | endStream => exact absurd hd h.1
    | clear => exact absurd hd h.2
    | readReg a => exact .inr (.inr (.inl ⟨a, hd⟩))

theorem pulsesOf_besideStream {w : Word72} (h : BesideStream w) (ws : List Word72) :
    pulsesOf (w :: ws) = pulsesOf ws := by
  refine pulsesOf_not_pulse (fun mark space hd => ?_) ws
  simp [BesideStream, hd] at h

/-! ## The commands of a stream, and its END -/

/-- The commands of a stream cut off and leave open the frames that the segmenter's loop does. -/
theorem InStream.runWords {max k : Nat} {cur : List Pulse} {s : State} (h : InStream max k cur s) {ws : List Word72}
    (hws : ∀ w ∈ ws, decode w ≠ .ok .endStream ∧ decode w ≠ .ok .clear) :
    ∃ t, runWords ws s = .next t ∧
      InStream max (k + (cutFrames cur (pulsesOf ws)).length) (openPulses cur (pulsesOf ws)) t ∧
      EmitsOfStream (frameRecordsFrom max k (cutFrames cur (pulsesOf ws))) s t := by
  induction ws generalizing k cur s with
  | nil => exact ⟨s, rfl, h, [], by simp, rfl⟩
  | cons w ws ih =>
    obtain ⟨hw, hws⟩ := List.forall_mem_cons.mp hws
    obtain ⟨mark, space, hd⟩ | hbeside := pulse_or_besideStream hw
    · rw [pulsesOf_pulse hd, Machine.runWords, runCommand_of_ok hd]
      cases hgap : isGap ⟨mark, space⟩ with
      | true =>
        obtain ⟨t, ht, hin, hpend⟩ := h.pulse_of_gap hgap
        obtain ⟨u, hu, hin', hemit⟩ := ih hin hws
        rw [ht, cutFrames_gap hgap, openPulses_gap hgap, List.length_cons, Nat.add_comm _ 1, ← Nat.add_assoc]
        exact ⟨u, hu, hin', ((frameRecord_ofStream _ _ _).emits hpend).trans hemit⟩
      | false =>
        obtain ⟨t, ht, hin, hemit⟩ := h.pulse_of_not_gap hgap
        obtain ⟨u, hu, hin', hemit'⟩ := ih hin hws
        rw [ht, cutFrames_not_gap hgap, openPulses_not_gap hgap]
        exact ⟨u, hu, hin', hemit.trans hemit'⟩
    · obtain ⟨t, ht, hin, hemit⟩ := h.besideStream hbeside
      obtain ⟨u, hu, hin', hemit'⟩ := ih hin hws
      rw [pulsesOf_besideStream hbeside, Machine.runWords, ht]
      exact ⟨u, hu, hin', hemit.trans hemit'⟩

/-- The frames that END finds open: one, or none. -/
theorem segmentFrom_end (cur : List Pulse) : segmentFrom cur [] = if cur = [] then [] else [cur] := rfl

/-- END of a stream that has begun closes what is open as the segmenter's last frame, and reports the frames. -/
theorem InStream.endStream {max k : Nat} {cur : List Pulse} {s : State} (h : InStream max k cur s)
    (hk : ¬ (k = 0 ∧ cur = [])) :
    ∃ t, exec .endStream s = .next t ∧
      t.pending = s.pending ++ (frameRecordsFrom max k (segmentFrom cur []) ++
        [Record.streamEnd (BitVec.ofNat 32 (k + (segmentFrom cur []).length)) .ok]).map Record.word := by
  have ha := h.strmActive hk
  have hcount := h.count
  by_cases hcur : cur = []
  · subst hcur
    have hc : s.curPulses = 0 := BitVec.eq_of_toNat_eq hcount
    refine ⟨_, execEnd_of_no_frame ha hc, ?_⟩
    rw [h.frames]
    rfl
  · have hc : s.curPulses ≠ 0 := fun h0 => by
      have hpos : 0 < cur.length := List.length_pos_of_ne_nil hcur
      have hzero : (0 : BitVec 32).toNat = 0 := rfl
      rw [h0, hzero] at hcount
      omega
    refine ⟨_, execEnd_of_open_frame ha hc (h.closeFrame hcur), ?_⟩
    rw [(h.closedFrame ha _).frames, segmentFrom_end, if_neg hcur, frameRecordsFrom_singleton, List.map_append,
      ← List.append_assoc]
    rfl

theorem runWords_concat {ws : List Word72} {i : Instr} {s t u : State} (h : runWords ws s = .next t)
    (hi : exec i t = .next u) : runWords (ws ++ [encode i]) s = .next u := by
  rw [runWords_append, h, andThen_next, runWords, runCommand_of_ok (decode_encode i), hi]
  rfl

theorem streamRecords_of_ne_nil {ps : List Pulse} (h : ps ≠ []) (max : Nat) :
    streamRecords max ps = frameRecordsFrom max 0 (segmentFrom [] ps) ++
      [.streamEnd (BitVec.ofNat 32 (segmentFrom [] ps).length) .ok] := by
  simp only [streamRecords, segmentPulses, if_neg h]

/-- END of a stream's commands completes the segmenter's records. -/
theorem InStream.end_of_stream {max : Nat} {ps : List Pulse} {s t : State}
    (h : InStream max (cutFrames [] ps).length (openPulses [] ps) t)
    (hemit : EmitsOfStream (frameRecordsFrom max 0 (cutFrames [] ps)) s t) :
    ∃ u, exec .endStream t = .next u ∧ EmitsOfStream (streamRecords max ps) s u := by
  by_cases hps : ps = []
  · subst hps
    have hidle : t.strmActive = false := h.idle.mpr ⟨rfl, rfl⟩
    exact ⟨_, execEnd_of_inactive hidle, hemit.trans ((streamEnd_ofStream 0 .inputIsEmpty).emits rfl)⟩
  · have hbegun : ¬ ((cutFrames [] ps).length = 0 ∧ openPulses [] ps = []) := by
      rintro ⟨hcut, hopen⟩
      have hflat := flatten_cutFrames [] ps
      rw [List.eq_nil_of_length_eq_zero hcut, hopen] at hflat
      exact hps hflat.symm
    obtain ⟨u, hu, hpend⟩ := h.endStream hbegun
    have hall := hemit.trans (((frameRecordsFrom_ofStream _ _ _).append (streamEnd_ofStream _ _)).emits hpend)
    refine ⟨u, hu, ?_⟩
    rwa [streamRecords_of_ne_nil hps, segmentFrom_eq_cut_and_open, ← segmentFrom_end, frameRecordsFrom_append,
      List.length_append, List.append_assoc, Nat.zero_add]

/-- Settles O29: the block goes through the stream's commands as the segmenter's loop does, and END closes what the loop
leaves open. -/
theorem streamEqualsTheBatchSegmenter : Obligations.StreamEqualsTheBatchSegmenter := by
  intro s ws hinv hidle hws
  obtain ⟨t, ht, hin, hemit⟩ := (hinv.inStream hidle).runWords hws
  rw [Nat.zero_add] at hin
  obtain ⟨u, hu, new, hpend, hnew⟩ := hin.end_of_stream hemit
  exact ⟨u, new, runWords_concat ht hu, hpend, hnew⟩

/-! ## The first frame of a stream -/

theorem execEnd_strmActive {s t : State} (h : execEnd s = .next t) : t.strmActive = false := by
  obtain ⟨-, r, rfl⟩ | ⟨-, -, r, rfl⟩ | ⟨-, rs, r, rfl⟩ := execEnd_next h <;> rfl

theorem execPulse_strmActive {mark space : Duration} {s t : State} (h : execPulse mark space s = .next t) :
    t.strmActive = true := by
  obtain ⟨-, rfl⟩ | ⟨-, rs, rfl⟩ := execPulse_next h <;> rfl

theorem runCommand_of_besideStream_keeps {w : Word72} {s t : State} (hw : BesideStream w)
    (h : runCommand w s = .next t) : t.strmActive = s.strmActive ∧ t.strmFrames = s.strmFrames := by
  obtain ⟨rs, ill, ht, -⟩ := runCommand_of_besideStream hw s
  obtain rfl := Host.Outcome.next.inj (h.symm.trans ht)
  exact ⟨rfl, rfl⟩

/-- Commands without a gap pulse among their pulses leave these open as the stream's first frame, and emit only words of
other commands. -/
theorem runWords_of_first_frame {s : State} {ws : List Word72} (hinv : s.Inv) (hidle : s.strmActive = false)
    (hws : ∀ w ∈ ws, decode w ≠ .ok .endStream ∧ decode w ≠ .ok .clear)
    (hshort : ∀ p ∈ pulsesOf ws, p.space.toNat < 8000) :
    ∃ t others, runWords ws s = .next t ∧ InStream s.params.maxPulses 0 (pulsesOf ws) t ∧
      t.pending = s.pending ++ others ∧ ∀ w ∈ others, typeField w = 0x09 ∨ typeField w = 0x0A := by
  obtain ⟨hcut, hopen⟩ := cut_and_open_of_no_gap (fun p hp => (not_isGap_iff p).mpr (hshort p hp)) []
  obtain ⟨t, ht, hin, others, hpend, hothers⟩ := (hinv.inStream hidle).runWords hws
  rw [hcut, hopen] at hin
  rw [hcut] at hothers
  refine ⟨t, others, ht, hin, hpend, fun w hw => (streamWord_eq_false_iff w).mp ?_⟩
  exact Bool.eq_false_iff.mpr (List.filter_eq_nil_iff.mp hothers w hw)

/-- Settles O28: what each command does to the stream, and its first frame closed by a gap pulse and by END. -/
theorem streamsBeginAtTheFirstPulse : Obligations.StreamsBeginAtTheFirstPulse := by
  refine ⟨fun s t mark space h => execPulse_strmActive h,
    fun s t h => ⟨execEnd_strmActive h, execEnd_strmFrames h⟩, fun s t h => ?_, fun s => ⟨rfl, rfl⟩,
    fun s t w h hw => runCommand_of_besideStream_keeps hw h, fun s ws hinv hidle hws hshort => ?_⟩
  · obtain rfl := Host.Outcome.next.inj h
    exact ⟨rfl, rfl⟩
  · obtain ⟨t, others, ht, hin, hpend, hothers⟩ := runWords_of_first_frame hinv hidle hws hshort
    refine ⟨others, hothers, fun mark space hgap => ?_, fun hne => ?_⟩
    · obtain ⟨u, hu, -, hclosed⟩ := hin.pulse_of_gap ((isGap_iff ⟨mark, space⟩).mpr hgap)
      exact ⟨u, runWords_concat ht hu, hpend ▸ hclosed⟩
    · obtain ⟨u, hu, hclosed⟩ := hin.endStream fun h0 => hne h0.2
      rw [segmentFrom_end, if_neg hne, frameRecordsFrom_singleton] at hclosed
      exact ⟨u, runWords_concat ht hu, hpend ▸ hclosed⟩

end Sys2Proof.Machine
end

section
/-! PROOFS (spec/41_demodulator.md R132 to R140). The classifier's windows lie apart, so the order of its tests does not
count; the line codes compare the pulse as naturals; demodulation maps the tag's line code over the pulses after the
leader. -/

namespace Sys2Proof.Machine

/-! ## The classifier -/

/-- Two templates whose marks or whose spaces lie more than twice LEADER_TOL apart share no leader. -/
theorem leaderIn_eq_false_of_apart {p : Pulse} {mark space mark' space' : Nat} (h : leaderIn p mark space = true)
    (hapart : (mark + 600 < mark' ∨ mark' + 600 < mark) ∨ space + 600 < space' ∨ space' + 600 < space) :
    leaderIn p mark' space' = false := by
  rw [Bool.eq_false_iff]
  intro h'
  simp only [leaderIn_iff, inWin_iff, timing_leaderTol] at h h'
  omega

/-- R133: the tag is that of the template the leader lies in, with no regard to the order of the tests. -/
theorem classify_iff_leaderIn (p : Pulse) :
    (classify p = .aeha ↔ leaderIn p timing.aehaLdrMark timing.aehaLdrSpace = true) ∧
      (classify p = .nec ↔ leaderIn p timing.necLdrMark timing.necLdrSpace = true) ∧
      (classify p = .necRepeat ↔ leaderIn p timing.necrLdrMark timing.necrLdrSpace = true) ∧
      (classify p = .sirc ↔ leaderIn p timing.sircLdrMark timing.sircLdrSpace = true) ∧
      (classify p = .unknown ↔
        ¬ leaderIn p timing.aehaLdrMark timing.aehaLdrSpace = true ∧
          ¬ leaderIn p timing.necLdrMark timing.necLdrSpace = true ∧
          ¬ leaderIn p timing.necrLdrMark timing.necrLdrSpace = true ∧
          ¬ leaderIn p timing.sircLdrMark timing.sircLdrSpace = true) := by
  unfold classify
  split_ifs with haeha hnec hrep hsirc
  · simp (disch := decide) only [haeha, leaderIn_eq_false_of_apart haeha, reduceCtorEq]
    decide
  · simp (disch := decide) only [haeha, hnec, leaderIn_eq_false_of_apart hnec, reduceCtorEq]
    decide
  · simp (disch := decide) only [haeha, hnec, hrep, leaderIn_eq_false_of_apart hrep, reduceCtorEq]
    decide
  · simp only [haeha, hnec, hrep, hsirc, reduceCtorEq]
    decide
  · simp only [haeha, hnec, hrep, hsirc, reduceCtorEq]
    decide

/-- Settles O31: the four templates, which lie apart, as windows of numbers. -/
theorem classifyByTheFourWindows : Obligations.ClassifyByTheFourWindows := by
  intro p m s
  simpa [leaderIn_iff, inWin_iff] using classify_iff_leaderIn p

/-! ## The line codes -/

theorem pdm_iff (p : Pulse) : pdm p = true ↔ 2 * p.mark.toNat ≤ p.space.toNat := decide_eq_true_iff

theorem pwm_iff (p : Pulse) : pwm p = true ↔ 1100 ≤ p.mark.toNat ∧ p.mark.toNat ≤ 1300 := inWin_iff _ _ _

/-- Settles O32: twice a mark of 0x8000_0000 is already more than any 32-bit space. -/
theorem pulseDistanceComparesExactly : Obligations.PulseDistanceComparesExactly := by
  refine fun p => ⟨pdm_iff p, fun hmark => Bool.eq_false_iff.mpr fun hhi => ?_⟩
  have hcmp := (pdm_iff p).mp hhi
  have hspace : p.space.toNat < 2 ^ 32 := p.space.isLt
  omega

/-- Settles O33: the window of the SIRC "one" mark, by value. -/
theorem pulseWidthReadsTheMarkOnly : Obligations.PulseWidthReadsTheMarkOnly := fun m s => pwm_iff ⟨m, s⟩

/-! ## Demodulation, by the leader's tag -/

theorem demodulate_of_aeha {leader : Pulse} (h : classify leader = .aeha) (rest : List Pulse) :
    demodulate leader rest = .aeha (rest.map pdm) := by
  rw [demodulate, h]

theorem demodulate_of_nec {leader : Pulse} (h : classify leader = .nec) (rest : List Pulse) :
    demodulate leader rest = .nec (rest.map pdm) := by
  rw [demodulate, h]

theorem demodulate_of_sirc {leader : Pulse} (h : classify leader = .sirc) (rest : List Pulse) :
    demodulate leader rest = .sirc (rest.map pwm) := by
  rw [demodulate, h]

theorem demodulate_of_necRepeat {leader : Pulse} (h : classify leader = .necRepeat) (rest : List Pulse) :
    demodulate leader rest = .necRepeat := by
  rw [demodulate, h]

theorem demodulate_of_unknown {leader : Pulse} (h : classify leader = .unknown) (rest : List Pulse) :
    demodulate leader rest = .unknown (leader :: rest) := by
  rw [demodulate, h]

theorem map_lineCode_getElem? (code : Pulse → Bit) (ps : List Pulse) (i : Nat) (h : i < ps.length) :
    (ps.map code)[i]? = some (code ps[i]) := by
  rw [List.getElem?_map, List.getElem?_eq_getElem h, Option.map_some]

/-- Settles O34: a coded frame's bits are its line code mapped over the pulses after the leader. -/
theorem demodulateOneBitPerPulse : Obligations.DemodulateOneBitPerPulse := fun _ rest =>
  ⟨fun h => ⟨_, demodulate_of_aeha h rest, List.length_map _, map_lineCode_getElem? pdm rest⟩,
    fun h => ⟨_, demodulate_of_nec h rest, List.length_map _, map_lineCode_getElem? pdm rest⟩,
    fun h => ⟨_, demodulate_of_sirc h rest, List.length_map _, map_lineCode_getElem? pwm rest⟩,
    fun h => demodulate_of_necRepeat h rest, fun h => demodulate_of_unknown h rest⟩

/-- Settles O35: a gap's space is at least twice a mark of 4000, a line code of the mark alone gives one bit for every
space, and each tag gives its form of an empty bit sequence for a leader alone. -/
theorem gapPulseBitsAndLoneLeaders : Obligations.GapPulseBitsAndLoneLeaders := by
  refine ⟨fun p hgap hmark => (pdm_iff p).mpr (by omega), fun m s s' => rfl, fun p => ?_⟩
  cases htag : classify p with
  | aeha => exact .inl (demodulate_of_aeha htag [])
  | nec => exact .inr (.inl (demodulate_of_nec htag []))
  | sirc => exact .inr (.inr (.inl (demodulate_of_sirc htag [])))
  | necRepeat => exact .inr (.inr (.inr (.inl (demodulate_of_necRepeat htag []))))
  | unknown => exact .inr (.inr (.inr (.inr (demodulate_of_unknown htag []))))

end Sys2Proof.Machine
end

section
/-! PROOFS (spec/42_frame_decoder.md R160 to R172, R182). The bits of a slice as a field; the BITS words; and the three
decoders, by the length of the sequence. -/

namespace Sys2Proof.Machine

/-! ## Fields of a bit sequence -/

/-- Where the slice lies in the sequence, its field has the sequence's bits, least significant first. -/
theorem foldField_getLsbD_eq_getElem? {n len i a : Nat} {bits : List Bit} (hn : i < n) (hlen : i < len)
    (hbits : a + i < bits.length) : some ((foldField n bits a len).getLsbD i) = bits[a + i]? := by
  simp [foldField_getLsbD n bits a len i hn, hlen, hbits]

/-- Above the slice's bits the field is zero. -/
theorem foldField_extract_above (n : Nat) (bits : List Bit) (a len k : Nat) :
    (foldField n bits a len).extractLsb' len k = 0#k := by
  apply BitVec.eq_of_getLsbD_eq
  intro j hj
  rw [BitVec.getLsbD_extractLsb', BitVec.getLsbD_zero]
  by_cases hn : len + j < n
  · simp [foldField_getLsbD n bits a len (len + j) hn]
  · simp [BitVec.getLsbD_of_ge _ _ (Nat.le_of_not_lt hn)]

/-! ## BITS words -/

theorem length_bitsWords (bits : List Bit) : (bitsWords bits).length = (bits.length + 63) / 64 := by
  simp [bitsWords, ceilDiv]

theorem bitsWords_getElem? {bits : List Bit} {w : Nat} (h : w < (bitsWords bits).length) :
    (bitsWords bits)[w]? = some (.bits (foldField 64 bits (64 * w) 64)) := by
  simp only [bitsWords, List.length_map, List.length_range] at h
  simp [bitsWords, h]

/-! ## AEHA -/

theorem length_aehaOctetList (bits : List Bit) : (aehaOctetList bits).length = (bits.length - 1 + 7) / 8 := by
  simp [aehaOctetList, ceilDiv]

theorem aehaOctetList_getElem? {bits : List Bit} {j : Nat} (h : j < (aehaOctetList bits).length) :
    (aehaOctetList bits)[j]? = some (foldField 8 bits (8 * j) (min 8 (bits.length - 1 - 8 * j))) := by
  simp only [aehaOctetList, List.length_map, List.length_range] at h
  simp [aehaOctetList, h]

/-- Bit `b` of octet `j` is data bit `8j + b`, and past the data bits the octets read 0 (R162). -/
theorem aehaOctetList_getLsbD (bits : List Bit) (j b : Nat) (hb : b < 8) :
    ((aehaOctetList bits)[j]?.getD 0).getLsbD b =
      (decide (8 * j + b < bits.length - 1) && bits.getD (8 * j + b) false) := by
  have hlen := length_aehaOctetList bits
  by_cases hj : j < (aehaOctetList bits).length
  · have hdata : b < min 8 (bits.length - 1 - 8 * j) ↔ 8 * j + b < bits.length - 1 := by omega
    simp only [aehaOctetList_getElem? hj, Option.getD_some, foldField_getLsbD _ _ _ _ _ hb, hdata]
  · have hpast : ¬ 8 * j + b < bits.length - 1 := by omega
    simp [List.getElem?_eq_none (Nat.le_of_not_lt hj), hpast]

theorem length_aehaOctetWords (octets : List (BitVec 8)) :
    (aehaOctetWords octets).length = (octets.length + 7) / 8 := by
  simp [aehaOctetWords, ceilDiv]

theorem aehaOctetWords_getElem? {octets : List (BitVec 8)} {w : Nat} (h : w < (aehaOctetWords octets).length) :
    (aehaOctetWords octets)[w]? = some (.aehaOctets (BitVec.ofNat 64 (packOctets (slice octets (8 * w) 8)))) := by
  simp only [aehaOctetWords, List.length_map, List.length_range] at h
  simp [aehaOctetWords, h]

/-- Bit `i` of word `w` is bit `i mod 8` of octet `8w + i/8`; a missing octet reads 0 (R164). -/
theorem packOctets_slice_getLsbD (octets : List (BitVec 8)) (w i : Nat) (hi : i < 64) :
    (BitVec.ofNat 64 (packOctets (slice octets (8 * w) 8))).getLsbD i =
      (octets[8 * w + i / 8]?.getD 0).getLsbD (i % 8) := by
  have hlane : i / 8 < 8 := by omega
  simp only [BitVec.getLsbD_ofNat, packOctets_testBit, List.getD_eq_getElem?_getD, slice_getElem?, hi, hlane, if_true,
    decide_true, Bool.true_and]

/-- The words of the octets are the data bits, 64 a word. -/
theorem aehaLanes_getLsbD (bits : List Bit) (w i : Nat) (hi : i < 64) :
    (BitVec.ofNat 64 (packOctets (slice (aehaOctetList bits) (8 * w) 8))).getLsbD i =
      (decide (64 * w + i < bits.length - 1) && bits.getD (64 * w + i) false) := by
  have hbit : 8 * (8 * w + i / 8) + i % 8 = 64 * w + i := by omega
  rw [packOctets_slice_getLsbD _ w i hi, aehaOctetList_getLsbD _ _ _ (by omega), hbit]

theorem decodeAeha_of_short {bits : List Bit} (h : bits.length < 2) :
    decodeAeha bits = ⟨.inputIsEmpty, .noField, []⟩ := if_pos h

theorem decodeAeha_of_long {bits : List Bit} (h : 2 ≤ bits.length) :
    decodeAeha bits =
      ⟨.ok, .noField,
        .aehaInfo (BitVec.ofNat 16 ((bits.length - 1 + 7) / 8))
          (BitVec.ofNat 4 (bits.length - 1 - 8 * ((bits.length - 1 + 7) / 8 - 1)))
          (bits.getLast?.getD false) :: aehaOctetWords (aehaOctetList bits)⟩ := by
  rw [decodeAeha, if_neg (Nat.not_lt.mpr h), length_aehaOctetList, List.getLast?_eq_getElem?,
    ← List.getD_eq_getElem?_getD]
  rfl

/-- Settles O36: bit `b` of octet `j` is data bit `8j + b`, and eight octets to a word make 64 data bits a word. -/
theorem aehaBitsBecomeOctets : Obligations.AehaBitsBecomeOctets := by
  refine fun bits => ⟨decodeAeha_of_short, fun h => ?_⟩
  intro d q
  have hlen : (aehaOctetList bits).length = q := length_aehaOctetList bits
  refine ⟨hlen, fun j hj => ?_, by omega, by omega, by omega, _, decodeAeha_of_long h, ?_, fun w hw => ?_⟩
  · refine ⟨_, aehaOctetList_getElem? (hlen ▸ hj), fun b hb => ?_⟩
    rw [← aehaOctetList_getLsbD bits j b hb, aehaOctetList_getElem? (hlen ▸ hj), Option.getD_some]
  · rw [length_aehaOctetWords, hlen]
  · exact ⟨_, aehaOctetWords_getElem? hw, aehaLanes_getLsbD bits w⟩

/-! ## NEC -/

theorem decodeNec_of_long {bits : List Bit} (h : 33 ≤ bits.length) :
    decodeNec bits =
      ⟨.ok, .noField,
        [.necFields (foldField 8 bits 0 8) (foldField 8 bits 8 8) (foldField 8 bits 16 8) (foldField 8 bits 24 8)
          (bits.getD 32 false)]⟩ := by
  rw [decodeNec, if_neg (by omega), if_neg (by omega), if_neg (by omega), if_neg (by omega), if_neg (by omega)]

/-- Settles O37: the lengths lie apart, and each field is a slice of the first 32 bits. -/
theorem necBitsBecomeFields : Obligations.NecBitsBecomeFields := by
  refine fun bits => ⟨fun h => ?_, fun hlo hhi => ?_, fun hlo hhi => ?_, fun hlo hhi => ?_, fun h => ?_, fun h => ?_⟩
  · rw [decodeNec, if_pos h]
  · rw [decodeNec, if_neg (by omega), if_pos hhi]
  · rw [decodeNec, if_neg (by omega), if_neg (by omega), if_pos hhi]
  · rw [decodeNec, if_neg (by omega), if_neg (by omega), if_neg (by omega), if_pos hhi]
  · rw [decodeNec, if_neg (by omega), if_neg (by omega), if_neg (by omega), if_neg (by omega), if_pos (by omega)]
  · have hstop : some (bits.getD 32 false) = bits[32]? := by simp [(by omega : 32 < bits.length)]
    have hfield (a i : Nat) (ha : a ≤ 24) (hi : i < 8) : some ((foldField 8 bits a 8).getLsbD i) = bits[a + i]? :=
      foldField_getLsbD_eq_getElem? hi hi (by omega)
    refine ⟨_, _, _, _, _, decodeNec_of_long h, hstop, fun i hi => ⟨?_, hfield 8 i (by decide) hi,
      hfield 16 i (by decide) hi, hfield 24 i (by decide) hi⟩⟩
    rw [hfield 0 i (by decide) hi, Nat.zero_add]

/-! ## SIRC -/

theorem decodeSirc_of_length_12 {bits : List Bit} (h : bits.length = 12) :
    decodeSirc bits = ⟨.ok, .noField, [.sircFields (foldField 7 bits 0 7) (foldField 8 bits 7 5) 0 .sirc12]⟩ := by
  rw [decodeSirc, if_pos h]

theorem decodeSirc_of_length_15 {bits : List Bit} (h : bits.length = 15) :
    decodeSirc bits = ⟨.ok, .noField, [.sircFields (foldField 7 bits 0 7) (foldField 8 bits 7 8) 0 .sirc15]⟩ := by
  rw [decodeSirc, if_neg (by omega), if_pos h]

theorem decodeSirc_of_length_20 {bits : List Bit} (h : bits.length = 20) :
    decodeSirc bits =
      ⟨.ok, .noField, [.sircFields (foldField 7 bits 0 7) (foldField 8 bits 7 5) (foldField 8 bits 12 8) .sirc20]⟩ := by
  rw [decodeSirc, if_neg (by omega), if_neg (by omega), if_pos h]

theorem decodeSirc_of_other_length {bits : List Bit} (h12 : bits.length ≠ 12) (h15 : bits.length ≠ 15)
    (h20 : bits.length ≠ 20) : decodeSirc bits = ⟨.unknownProtocol, .noField, []⟩ := by
  rw [decodeSirc, if_neg h12, if_neg h15, if_neg h20]

/-- Settles O38: each length has its own fields, slices of the sequence; a 5-bit address is zero above its bits. -/
theorem sircBitsBecomeFields : Obligations.SircBitsBecomeFields := by
  refine fun bits => ⟨decodeSirc_of_other_length, fun hlen => ?_⟩
  have hcmd (i : Nat) (hi : i < 7) : some ((foldField 7 bits 0 7).getLsbD i) = bits[i]? := by
    rw [foldField_getLsbD_eq_getElem? hi hi (by omega), Nat.zero_add]
  have haddr (i : Nat) (hi : i < 5) : some ((foldField 8 bits 7 5).getLsbD i) = bits[7 + i]? :=
    foldField_getLsbD_eq_getElem? (by omega) hi (by omega)
  have habove : (foldField 8 bits 7 5).extractLsb' 5 3 = 0#3 := foldField_extract_above 8 bits 7 5 3
  obtain h | h | h := hlen
  · exact ⟨_, _, _, _, decodeSirc_of_length_12 h, hcmd, fun _ => ⟨rfl, rfl, haddr, habove⟩,
      fun h15 => by omega, fun h20 => by omega⟩
  · exact ⟨_, _, _, _, decodeSirc_of_length_15 h, hcmd, fun h12 => by omega,
      fun _ => ⟨rfl, rfl, fun i hi => foldField_getLsbD_eq_getElem? hi hi (by omega)⟩, fun h20 => by omega⟩
  · exact ⟨_, _, _, _, decodeSirc_of_length_20 h, hcmd, fun h12 => by omega, fun h15 => by omega,
      fun _ => ⟨rfl, fun i hi => foldField_getLsbD_eq_getElem? hi hi (by omega), haddr, habove⟩⟩

end Sys2Proof.Machine
end

section
/-! PROOFS (spec/42_frame_decoder.md R173 to R187). The whole frame record of each tag, and how many words it and a
command emit. -/

namespace Sys2Proof.Machine

/-! ## Whole records -/

/-- Settles O39: a BITS word is the field of its 64 bits, and a coded record is its header, those words and the
decoder's. -/
theorem bitsWordsCarryTheSequence : Obligations.BitsWordsCarryTheSequence := by
  refine ⟨fun bits => ⟨length_bitsWords bits, fun w hw => ⟨_, bitsWords_getElem? hw, fun i hi => ?_⟩⟩,
    fun max k leader rest hfit => ?_⟩
  · rw [foldField_getLsbD 64 bits (64 * w) 64 i hi, decide_eq_true hi, Bool.true_and]
  · have hrecord := frameRecord_fitting hfit k leader
    exact ⟨fun htag => ⟨_, typeField_word _, hrecord.trans (fittingRecord_aeha htag k rest)⟩,
      fun htag => ⟨_, typeField_word _, hrecord.trans (fittingRecord_nec htag k rest)⟩,
      fun htag => ⟨_, typeField_word _, hrecord.trans (fittingRecord_sirc htag k rest)⟩⟩

theorem pulseCount_of_le {n : Nat} (h : n ≤ 65535) : pulseCount n = BitVec.ofNat 16 n := by
  have hsat : satN 16 n = n := Nat.min_eq_left h
  rw [pulseCount, hsat]

/-- Settles O40: the frame fits a capacity of at most 65535, so PULSE_COUNT does not saturate. -/
theorem unknownAndRepeatFrameRecords : Obligations.UnknownAndRepeatFrameRecords := by
  intro max k leader rest hmax hfit
  rw [frameRecord_fitting hfit, ← pulseCount_of_le (hfit.trans hmax)]
  exact ⟨fun htag => fittingRecord_unknown htag k rest, fun htag => fittingRecord_necRepeat htag k rest⟩

/-! ## Word counts of a frame record -/

theorem length_decodeAeha_words (bits : List Bit) :
    (decodeAeha bits).words.length = if bits.length < 2 then 0 else 1 + ((bits.length - 1 + 7) / 8 + 7) / 8 := by
  split
  next h => rw [decodeAeha_of_short h, List.length_nil]
  next h =>
    rw [decodeAeha_of_long (Nat.not_lt.mp h), List.length_cons, length_aehaOctetWords, length_aehaOctetList,
      Nat.add_comm]

theorem length_decodeNec_words (bits : List Bit) :
    (decodeNec bits).words.length = if bits.length < 33 then 0 else 1 := by
  split
  next h =>
    unfold decodeNec
    split_ifs <;> rfl
  next h => rw [decodeNec_of_long (Nat.not_lt.mp h), List.length_singleton]

theorem length_decodeSirc_words (bits : List Bit) :
    (decodeSirc bits).words.length = if bits.length = 12 ∨ bits.length = 15 ∨ bits.length = 20 then 1 else 0 := by
  split
  next h =>
    obtain h | h | h := h
    · rw [decodeSirc_of_length_12 h, List.length_singleton]
    · rw [decodeSirc_of_length_15 h, List.length_singleton]
    · rw [decodeSirc_of_length_20 h, List.length_singleton]
  next h =>
    simp only [not_or] at h
    obtain ⟨h12, h15, h20⟩ := h
    rw [decodeSirc_of_other_length h12 h15 h20, List.length_nil]

theorem length_codedRecord (k : BitVec 16) (tag : Tag) (n : Nat) (bits : List Bit) (d : Decoded) :
    (codedRecord k tag n bits d).length = 1 + (bits.length + 63) / 64 + d.words.length := by
  rw [codedRecord, List.length_cons, List.length_append, length_bitsWords]
  omega

section
variable {leader : Pulse} (k : BitVec 16) (rest : List Pulse)

theorem length_fittingRecord_unknown (h : classify leader = .unknown) :
    (fittingRecord k leader rest).length = 1 + (rest.length + 1) := by
  simp [fittingRecord_unknown h, Nat.add_comm 1]

theorem length_fittingRecord_necRepeat (h : classify leader = .necRepeat) :
    (fittingRecord k leader rest).length = 1 := by
  rw [fittingRecord_necRepeat h, List.length_singleton]

theorem length_fittingRecord_aeha (h : classify leader = .aeha) :
    (fittingRecord k leader rest).length =
      1 + (rest.length + 63) / 64 +
        if rest.length < 2 then 0 else 1 + ((rest.length - 1 + 7) / 8 + 7) / 8 := by
  rw [fittingRecord_aeha h, length_codedRecord, length_decodeAeha_words, List.length_map]

theorem length_fittingRecord_nec (h : classify leader = .nec) :
    (fittingRecord k leader rest).length =
      1 + (rest.length + 63) / 64 + if rest.length < 33 then 0 else 1 := by
  rw [fittingRecord_nec h, length_codedRecord, length_decodeNec_words, List.length_map]

theorem length_fittingRecord_sirc (h : classify leader = .sirc) :
    (fittingRecord k leader rest).length =
      1 + (rest.length + 63) / 64 +
        if rest.length = 12 ∨ rest.length = 15 ∨ rest.length = 20 then 1 else 0 := by
  rw [fittingRecord_sirc h, length_codedRecord, length_decodeSirc_words, List.length_map]

/-- No record is longer than that of an UNKNOWN frame: a word for each pulse after the header. -/
theorem length_fittingRecord_le (leader : Pulse) :
    (fittingRecord k leader rest).length ≤ 1 + (rest.length + 1) := by
  cases htag : classify leader with
  | unknown => exact (length_fittingRecord_unknown k rest htag).le
  | necRepeat =>
    rw [length_fittingRecord_necRepeat k rest htag]
    omega
  | aeha =>
    rw [length_fittingRecord_aeha k rest htag]
    split <;> omega
  | nec =>
    rw [length_fittingRecord_nec k rest htag]
    split <;> omega
  | sirc =>
    rw [length_fittingRecord_sirc k rest htag]
    split <;> omega

end

theorem length_frameRecord_le (max : Nat) (k : BitVec 16) (leader : Pulse) (rest : List Pulse) :
    (frameRecord max k (leader :: rest)).length ≤ 1 + max := by
  by_cases hmax : max < rest.length + 1
  · rw [frameRecord_overflow hmax, overflowRecord, List.length_singleton]
    omega
  · rw [frameRecord_fitting (Nat.not_lt.mp hmax)]
    exact (length_fittingRecord_le k rest leader).trans (by omega)

/-! ## Word counts of a command -/

theorem length_pending_emit (rs : List Record) (s : State) :
    (emit rs s).pending.length = s.pending.length + rs.length := by
  rw [emit_pending, List.length_append, List.length_map]

/-- Closing an open frame emits one frame record. -/
theorem closeFrame_length_pending_le {s t : State} (h : s.Inv) (hc : 0 < s.curPulses.toNat)
    (ht : closeFrame s = .next t) : t.pending.length ≤ s.pending.length + s.params.maxPulses + 1 := by
  obtain ⟨leader, rest, hf, ⟨-, hclose⟩ | ⟨-, hclose⟩⟩ := closeFrame_of_inv h hc
  · obtain rfl := Host.Outcome.next.inj (hclose.symm.trans ht)
    have hle := length_frameRecord_le s.params.maxPulses (frameIdx s) leader rest
    rw [countFrame_pending, length_pending_emit, hf]
    omega
  · obtain rfl := Host.Outcome.next.inj (hclose.symm.trans ht)
    rw [countFrame_pending, length_pending_emit, setOvfSeen_pending, overflowRecord, List.length_singleton]
    omega

theorem execPulse_length_pending_le {mark space : Duration} {s t : State} (h : s.Inv)
    (ht : execPulse mark space s = .next t) : t.pending.length ≤ s.pending.length + s.params.maxPulses + 1 := by
  obtain ⟨-, rfl⟩ | ⟨-, hclose⟩ := execPulse_cases ht
  · rw [acceptPulse_pending]
    omega
  · have hopen : 0 < (acceptPulse ⟨mark, space⟩ s).curPulses.toNat := by
      rw [acceptPulse_curPulses, satIncr_toNat]
      omega
    have hle := closeFrame_length_pending_le (acceptPulse_keeps_inv h ⟨mark, space⟩) hopen hclose
    rwa [acceptPulse_pending, acceptPulse_params] at hle

/-- END closes at most one frame, and adds STREAM_END. -/
theorem execEnd_length_pending_le {s t : State} (h : s.Inv) (ht : execEnd s = .next t) :
    t.pending.length ≤ s.pending.length + s.params.maxPulses + 2 := by
  have hreport (u : State) (r : Record) : (finishStream (emit [r] u)).pending.length = u.pending.length + 1 :=
    length_pending_emit [r] u
  obtain ⟨-, rfl⟩ | ⟨-, -, rfl⟩ | ⟨-, hc, u, hclose, rfl⟩ := execEnd_cases ht
  · rw [hreport]
    omega
  · rw [hreport]
    omega
  · have hpos : 0 < s.curPulses.toNat := Nat.pos_of_ne_zero fun h0 => hc (BitVec.eq_of_toNat_eq h0)
    have hle := closeFrame_length_pending_le h hpos hclose
    rw [hreport]
    omega

theorem exec_length_pending_le {i : Instr} {s t : State} (h : s.Inv) (ht : exec i s = .next t) :
    t.pending.length ≤ s.pending.length + s.params.maxPulses + 2 := by
  cases i with
  | nop =>
    obtain rfl : s = t := Host.Outcome.next.inj ht
    omega
  | pulse mark space => exact (execPulse_length_pending_le h ht).trans (Nat.le_succ _)
  | endStream => exact execEnd_length_pending_le h ht
  | clear =>
    obtain rfl : clearStream s = t := Host.Outcome.next.inj ht
    rw [clearStream_pending]
    omega
  | readReg addr =>
    obtain ⟨v, -, rfl⟩ | ⟨-, rfl⟩ := execReadReg_cases ht
    · rw [length_pending_emit, List.length_singleton]
      omega
    · rw [length_pending_emit, List.length_singleton, setIllSeen_pending]
      omega

/-- Settles O42: the header alone past the capacity, each tag's own count within it, and END's STREAM_END after the
longest record. -/
theorem frameRecordWordCounts : Obligations.FrameRecordWordCounts := by
  refine ⟨?_, fun i s t h => exec_length_pending_le h⟩
  intro max k leader rest n words
  refine ⟨fun hover => ?_, fun hfit => ?_⟩
  · exact congrArg List.length (frameRecord_overflow hover k leader)
  · have hwords : words = (fittingRecord k leader rest).length :=
      congrArg List.length (frameRecord_fitting hfit k leader)
    refine ⟨fun htag => ?_, fun htag => ?_, fun htag (hshort : rest.length < 2) => ?_,
      fun htag (hlong : 2 ≤ rest.length) => ?_, fun htag (hshort : rest.length < 33) => ?_,
      fun htag (hlong : 33 ≤ rest.length) => ?_,
      fun htag (hknown : rest.length = 12 ∨ rest.length = 15 ∨ rest.length = 20) => ?_,
      fun htag h12 h15 h20 => ?_, length_frameRecord_le max k leader rest⟩
    · exact hwords.trans (length_fittingRecord_unknown k rest htag)
    · exact hwords.trans (length_fittingRecord_necRepeat k rest htag)
    · rw [hwords, length_fittingRecord_aeha k rest htag, if_pos hshort]
      rfl
    · rw [hwords, length_fittingRecord_aeha k rest htag, if_neg (Nat.not_lt.mpr hlong), ← Nat.add_assoc]
      rfl
    · rw [hwords, length_fittingRecord_nec k rest htag, if_pos hshort]
      rfl
    · rw [hwords, length_fittingRecord_nec k rest htag, if_neg (Nat.not_lt.mpr hlong)]
      rfl
    · rw [hwords, length_fittingRecord_sirc k rest htag, if_pos hknown]
      rfl
    · have hother : ¬ (rest.length = 12 ∨ rest.length = 15 ∨ rest.length = 20) :=
        not_or.mpr ⟨h12, not_or.mpr ⟨h15, h20⟩⟩
      rw [hwords, length_fittingRecord_sirc k rest htag, if_neg hother]
      rfl

end Sys2Proof.Machine
end

section
/-! PROOFS (spec/43_control.md R200 to R206). The control commands NOP, CLEAR and READ_REG, and the rejection of a
command for each of its three reasons. -/

namespace Sys2Proof

/-! ## What the decoder refuses -/

theorem decode_illegal_opcode {w : Word72} (h : 0x05 ≤ (opField w).toNat) : decode w = .error .illegalOpcode := by
  unfold decode
  split
  case h_1 hop | h_2 hop | h_3 hop | h_4 hop | h_5 hop => omega
  case h_6 => rfl

/-- The commands without operands, NOP, END and CLEAR, reserve all of A and B. -/
theorem decode_reserved_operands {w : Word72} (hop : opField w = 0x00 ∨ opField w = 0x02 ∨ opField w = 0x03)
    (h : aField w ≠ 0 ∨ bField w ≠ 0) : decode w = .error .reservedNonzero := by
  have hzero : ¬ (aField w = 0 ∧ bField w = 0) := not_and_or.mpr h
  obtain hop | hop | hop := hop
  all_goals
    rw [decode, hop]
    exact if_neg hzero

/-- READ_REG reserves A and B[31:8]. -/
theorem decode_readReg_reserved {w : Word72} (hop : opField w = 0x04) (h : aField w ≠ 0 ∨ bHighField w ≠ 0) :
    decode w = .error .reservedNonzero := by
  rw [decode, hop]
  exact if_neg (not_and_or.mpr h)

theorem decode_readReg_word {w : Word72} (hop : opField w = 0x04) (ha : aField w = 0) (hb : bHighField w = 0) :
    decode w = .ok (.readReg (addrField w)) := by
  rw [decode, hop]
  exact if_pos ⟨ha, hb⟩

end Sys2Proof

namespace Sys2Proof.Machine

/-! ## Rejection and register reads -/

/-- A word the decoder refuses leaves the rejected state, whatever the reason. -/
theorem runCommand_rejected {w : Word72} {kind : CmdErrorKind} (h : decode w = .error kind) (s : State) :
    runCommand w s = .next (rejectedState s (opField w) kind (errorAddr kind (addrField w))) := by
  rw [runCommand_of_error h, rejectWord_eq]
  rfl

theorem exec_readReg_implemented {s : State} {a : RegAddr} {v : RegValue} (h : reg s a = some v) :
    exec (.readReg a) s = .next (emit [.regValue a v] s) := by
  simp only [exec, execReadReg, h]

theorem exec_readReg_unimplemented {s : State} {a : RegAddr} (h : reg s a = none) :
    exec (.readReg a) s = .next (rejectedState s 0x04 .badRegAddr a) := by
  simp only [exec, execReadReg, h]
  rfl

/-- No register shows the result words on their way to the host. -/
@[simp] theorem reg_emit (rs : List Record) (s : State) (a : RegAddr) : reg (emit rs s) a = reg s a := rfl

/-! ## The obligations -/

/-- Settles O21: an implemented address has a value to emit, the addresses outside the table have none, and the decoder
checks the reserved bits before the address is looked up. -/
theorem readRegEmitsTheRegister : Obligations.ReadRegEmitsTheRegister := by
  refine ⟨fun s a v hv => exec_readReg_implemented hv, fun s a ha => ?_, fun s w hop hA hB => ?_,
    fun s w hop hz => ?_⟩
  · have hrange : a.toNat ≤ 0xFF := Nat.le_of_lt_succ a.isLt
    exact exec_readReg_unimplemented ((reg_eq_none_iff s a).mpr (ha.imp_right fun hhigh => ⟨hhigh, hrange⟩))
  · exact runCommand_of_ok (decode_readReg_word hop hA hB) s
  · rw [runCommand_rejected (decode_readReg_reserved hop hz), hop]
    rfl

/-- Settles O23: the decoder gives the first two reasons, and the register table the third. -/
theorem rejectedCommandsChangeNothingElse : Obligations.RejectedCommandsChangeNothingElse := by
  refine fun s w => ⟨fun hop => ?_, fun hop hz => ?_, fun hop hz => ?_, fun hop hA hB hnone => ?_⟩
  · exact runCommand_rejected (decode_illegal_opcode hop) s
  · exact runCommand_rejected (decode_reserved_operands hop hz) s
  · exact runCommand_rejected (decode_readReg_reserved hop hz) s
  · rw [runCommand_of_ok (decode_readReg_word hop hA hB), exec_readReg_unimplemented hnone, hop]

/-- Settles O19: the zero word decodes to NOP, and every other word with its opcode is refused. -/
theorem nopHasNoEffect : Obligations.NopHasNoEffect := by
  refine ⟨fun s => rfl, runCommand_of_ok (decode_encode .nop), fun s w hop hz => ?_⟩
  rw [runCommand_rejected (decode_reserved_operands (.inl hop) hz), hop]
  rfl

/-- Settles O20: CLEAR is `clearStream`, and a CLEAR word with a non-zero operand is refused. -/
theorem clearResetsAllButTheOutput : Obligations.ClearResetsAllButTheOutput := by
  refine ⟨fun s => rfl, runCommand_of_ok (decode_encode .clear), fun s w hop hz => ?_⟩
  rw [runCommand_rejected (decode_reserved_operands (.inr (.inr hop)) hz), hop]
  rfl

/-- Settles O22: the first read only emits, so the second finds the same value and emits the same word. -/
theorem registerReadIsASnapshot : Obligations.RegisterReadIsASnapshot := by
  intro s t a himpl h
  obtain ⟨v, hv⟩ := Option.isSome_iff_exists.mp himpl
  have ht : emit [.regValue a v] s = t := Host.Outcome.next.inj ((exec_readReg_implemented hv).symm.trans h)
  subst ht
  refine ⟨reg_emit _ s, emit [.regValue a v] (emit [.regValue a v] s), (Record.regValue a v).word, rfl, ?_, ?_⟩
  · exact exec_readReg_implemented ((reg_emit _ s a).trans hv)
  · rw [emit_emit]
    rfl

end Sys2Proof.Machine
end

section
/-! PROOFS (spec/60_exceptions.md R230, R236). The one fault is a frame close that reads a valueless entry, and in the
invariant every frame that a command closes is open and its entries hold values. So every command has a next state, and
so has every step and every run. -/

namespace Sys2Proof.Machine

/-! ## Every command has a next state -/

theorem closeFrame_stepsOn {s : State} (h : s.Inv) (hc : 0 < s.curPulses.toNat) : ∃ t, closeFrame s = .next t := by
  obtain ⟨leader, rest, -, ⟨-, hclose⟩ | ⟨-, hclose⟩⟩ := closeFrame_of_inv h hc
  · exact ⟨_, hclose⟩
  · exact ⟨_, hclose⟩

/-- The frame that PULSE may close holds at least the pulse it has just accepted. -/
theorem acceptPulse_opens_frame (p : Pulse) (s : State) : 0 < (acceptPulse p s).curPulses.toNat := by
  rw [acceptPulse_curPulses, satIncr_toNat]
  omega

theorem execPulse_stepsOn {s : State} (h : s.Inv) (mark space : Duration) : ∃ t, execPulse mark space s = .next t := by
  by_cases hgap : 8000 ≤ space.toNat
  · rw [execPulse_of_gap hgap]
    exact closeFrame_stepsOn (acceptPulse_keeps_inv h _) (acceptPulse_opens_frame _ s)
  · exact ⟨_, execPulse_of_not_gap (Nat.lt_of_not_le hgap) s⟩

theorem closeOpenFrame_stepsOn {s : State} (h : s.Inv) : ∃ t, closeOpenFrame s = .next t := by
  unfold closeOpenFrame
  split
  case isTrue => exact ⟨s, rfl⟩
  case isFalse hc => exact closeFrame_stepsOn h (Nat.pos_of_ne_zero fun h0 => hc (BitVec.eq_of_toNat_eq h0))

theorem execEnd_stepsOn {s : State} (h : s.Inv) : ∃ t, execEnd s = .next t := by
  unfold execEnd
  split
  case isTrue =>
    obtain ⟨u, hu⟩ := closeOpenFrame_stepsOn h
    rw [hu, andThen_next]
    exact ⟨_, rfl⟩
  case isFalse => exact ⟨_, rfl⟩

/-- READ_REG emits the register's value or is rejected, whatever the state. -/
theorem execReadReg_stepsOn (addr : RegAddr) (s : State) : ∃ t, execReadReg addr s = .next t := by
  cases hv : reg s addr with
  | some v => exact ⟨_, exec_readReg_implemented hv⟩
  | none => exact ⟨_, exec_readReg_unimplemented hv⟩

theorem exec_stepsOn {s : State} (h : s.Inv) (i : Instr) : ∃ t, exec i s = .next t := by
  cases i with
  | nop => exact ⟨s, rfl⟩
  | pulse mark space => exact execPulse_stepsOn h mark space
  | endStream => exact execEnd_stepsOn h
  | clear => exact ⟨clearStream s, rfl⟩
  | readReg addr => exact execReadReg_stepsOn addr s

/-- A word that the decoder refuses is rejected, and a rejection is a next state too (spec/60_exceptions.md R236). -/
theorem runCommand_stepsOn {s : State} (h : s.Inv) (w : Word72) : ∃ t, runCommand w s = .next t := by
  cases hd : decode w with
  | ok i =>
    rw [runCommand_of_ok hd]
    exact exec_stepsOn h i
  | error kind => exact ⟨_, runCommand_rejected hd s⟩

/-! ## Every step, and every run -/

theorem State.Inv.withScript {s : State} (h : s.Inv) (es : List HostEvent) : ({ s with script := es } : State).Inv :=
  ⟨h.params, h.idle, h.buffer, h.fifo⟩

/-- Only a step that runs a command word can stop: all other events, and none, have a next state of their own. -/
theorem stepsOn_of_commands {s : State}
    (hcmd : ∀ w rest, s.script = .command w :: rest → ∃ t, runCommand w { s with script := rest } = .next t) :
    s.stepsOn := by
  unfold State.stepsOn step
  split
  case h_1 | h_2 | h_3 => exact ⟨_, rfl⟩
  case h_4 =>
    split
    · exact ⟨_, rfl⟩
    · split <;> exact ⟨_, rfl⟩
  case h_5 w rest hs =>
    split
    · exact hcmd w rest hs
    · exact ⟨_, rfl⟩

theorem State.Inv.stepsOn {s : State} (h : s.Inv) : s.stepsOn :=
  stepsOn_of_commands fun w rest _ => runCommand_stepsOn (h.withScript rest) w

/-- Settles O11, by induction on the number of steps: a state in the invariant has a next state, and this one is in the
invariant again. -/
theorem runsNeverStop : Obligations.RunsNeverStop := by
  intro k
  induction k with
  | zero => exact fun s h => ⟨s, run_zero s, h⟩
  | succ k ih =>
    intro s h
    obtain ⟨u, hu⟩ := h.stepsOn
    rw [run_succ_of_next hu]
    exact ih u (stepKeepsTheInvariant s u h hu)

end Sys2Proof.Machine
end

section
/-! PROOFS (spec/70_reset_and_hazards.md R260, R274, R275). What a reset leaves, what a finished run goes on to do, and
the delivery of all waiting words to a host that keeps taking. -/

namespace Sys2Proof.Machine

/-! ## The steps of a wait, of a reset, and of a take with nothing to take -/

theorem step_of_wait {s : State} {rest : List HostEvent} (hs : s.script = .wait :: rest) :
    step s = .next (moveWord { s with script := rest }) := by
  rw [step, hs]

theorem step_of_reset {s : State} {rest : List HostEvent} (hs : s.script = .reset :: rest) :
    step s = .next (resetBlock { s with script := rest }) := by
  rw [step, hs]

theorem step_of_take_idle {s : State} {rest : List HostEvent} (hs : s.script = .take :: rest) (hq : s.outq = [])
    (hp : s.pending = []) : step s = .next { s with script := rest } := by
  rw [step, hs]
  simp only [hq]
  exact if_pos ((ready_iff s).mpr hp)

theorem step_of_take_waiting {s : State} {rest : List HostEvent} (hs : s.script = .take :: rest) (hq : s.outq = [])
    (hp : s.pending ≠ []) : step s = .next (moveWord s) := by
  rw [step, hs]
  simp only [hq]
  exact if_neg fun hr => hp ((ready_iff s).mp hr)

/-! ## Reset -/

/-- Settles O6: the elements are the fields of the reset block, no entry of an empty buffer holds a value, and the
registers read as the table of R30 says. -/
theorem resetPutsEveryElementToItsResetValue : Obligations.ResetPutsEveryElementToItsResetValue := by
  intro s
  refine ⟨rfl, rfl, rfl, rfl, rfl, rfl, rfl, rfl, rfl, fun i => ?_, reg_id _, reg_caps _, ?_, ?_⟩
  · exact fbufRead_eq_none ((Nat.zero_min _).trans_le (Nat.zero_le i))
  · have hstatus : reg (resetBlock s) 0x02 = some 0 := congrArg some (statusReg_resetBlock s)
    simp only [List.forall_mem_cons]
    exact ⟨hstatus, reg_curPulses _, reg_strmFrames _, reg_totFrames _, reg_totPulses _, List.forall_mem_nil _⟩
  · obtain ⟨-, -, -, -, -, -, -, hconstants⟩ := registerTableReadsAsGiven.1 (resetBlock s)
    simpa only [List.forall_mem_cons, List.not_mem_nil, IsEmpty.forall_iff, implies_true, and_true] using hconstants

/-- Settles O7: the step of a reset event, read off the reset block. -/
theorem resetEventDropsUntakenWords : Obligations.ResetEventDropsUntakenWords :=
  fun _ _ hs => step_of_reset hs

/-! ## A finished run -/

/-- With no command left and no word waiting, each event of the host is used up and brings nothing. -/
theorem step_of_finished {s : State} (h : s.finished) :
    ∃ t : State, step s = .next t ∧ t.finished ∧ t.taken = s.taken := by
  obtain ⟨hcmd, hp, hq⟩ := h
  cases hs : s.script with
  | nil => exact ⟨s, by rw [step_of_no_event hs, moveWord_of_nothing_pending hp], ⟨hcmd, hp, hq⟩, rfl⟩
  | cons e rest =>
    rw [hs] at hcmd
    cases e with
    | command w => exact absurd hcmd (List.cons_ne_nil w _)
    | take => exact ⟨_, step_of_take_idle hs hq hp, ⟨hcmd, hp, hq⟩, rfl⟩
    | reset => exact ⟨_, step_of_reset hs, ⟨hcmd, rfl, rfl⟩, rfl⟩
    | wait =>
      refine ⟨{ s with script := rest }, ?_, ⟨hcmd, hp, hq⟩, rfl⟩
      rw [step_of_wait hs, moveWord_of_nothing_pending (s := { s with script := rest }) hp]

/-- Settles O52, by induction on the number of steps: a finished state steps to a finished state. -/
theorem finishedRunsDeliverNothingMore : Obligations.FinishedRunsDeliverNothingMore := by
  intro k
  induction k with
  | zero => exact fun s h => ⟨s, run_zero s, h, rfl⟩
  | succ k ih =>
    intro s h
    obtain ⟨u, hu, hfin, htaken⟩ := step_of_finished h
    rw [run_succ_of_next hu, ← htaken]
    exact ih u hfin

/-! ## Delivery to a host that keeps taking -/

/-- The host is about to take as many words as are waiting, and to do nothing else. -/
def State.TakesAll (s : State) : Prop := s.script = List.replicate (s.pending.length + s.outq.length) .take

/-- The steps that deliver what is waiting: a move and a take for each pending word, and a take for each queued one. -/
def State.deliverySteps (s : State) : Nat := 2 * s.pending.length + s.outq.length

theorem deliverySteps_eq_zero_iff (s : State) : s.deliverySteps = 0 ↔ s.pending = [] ∧ s.outq = [] := by
  simp [State.deliverySteps]

/-- While a word waits, a step brings the delivery one step nearer: the host takes the head of `outq`; or `outq` is
empty, so it has room, and a pending word moves into it. The words of the run stay the same. -/
theorem step_of_takesAll {s : State} (hinv : s.Inv) (htakes : s.TakesAll) {n : Nat} (hn : s.deliverySteps = n + 1) :
    ∃ t : State, step s = .next t ∧ t.TakesAll ∧ t.deliverySteps = n ∧ t.resultStream = s.resultStream := by
  unfold State.TakesAll at htakes
  unfold State.deliverySteps at hn
  cases hq : s.outq with
  | cons w ws =>
    simp only [hq, List.length_cons] at htakes hn
    exact ⟨_, step_of_take htakes hq, rfl, Nat.succ.inj hn, (sameRun_take hq _).stream⟩
  | nil =>
    cases hp : s.pending with
    | nil => simp [hq, hp] at hn
    | cons w ws =>
      have hroom : s.outq.length < s.params.outDepth := by
        obtain ⟨-, -, hdepth⟩ := hinv.params
        exact hq ▸ hdepth
      have hmove := moveWord_of_room hp hroom
      simp only [hq, hp, List.length_cons, List.length_nil] at htakes hn
      refine ⟨moveWord s, step_of_take_waiting htakes hq (by simp [hp]), ?_, ?_, (sameRun_moveWord s).stream⟩
      · rw [State.TakesAll, hmove, hq]
        exact htakes
      · rw [State.deliverySteps, hmove, hq]
        simp only [List.nil_append, List.length_singleton]
        omega

/-- A state with nothing left to deliver is where the run ends: all words of the run have been taken. -/
theorem finished_of_no_deliverySteps {s : State} (htakes : s.TakesAll) (hn : s.deliverySteps = 0) :
    s.finished ∧ s.script = [] ∧ s.taken = s.resultStream := by
  obtain ⟨hp, hq⟩ := (deliverySteps_eq_zero_iff s).mp hn
  have hs : s.script = [] := by rw [htakes, hp, hq]; rfl
  exact ⟨⟨by rw [hs]; rfl, hp, hq⟩, hs, by simp [State.resultStream, hp, hq]⟩

theorem run_delivers_resultStream (n : Nat) {s : State} (hinv : s.Inv) (htakes : s.TakesAll)
    (hn : s.deliverySteps = n) :
    ∃ t : State, Host.Core.run Sys2Proof.core n s = .next t ∧ t.finished ∧ t.script = [] ∧
      t.taken = s.resultStream := by
  induction n generalizing s with
  | zero => exact ⟨s, run_zero s, finished_of_no_deliverySteps htakes hn⟩
  | succ n ih =>
    obtain ⟨u, hu, htakes', hn', hstream⟩ := step_of_takesAll hinv htakes hn
    rw [run_succ_of_next hu, ← hstream]
    exact ih (stepKeepsTheInvariant s u hinv hu) htakes' hn'

/-- Settles O49: the run has as many steps as the delivery takes. -/
theorem takingHostGetsEveryWord : Obligations.TakingHostGetsEveryWord :=
  fun s hinv htakes => run_delivers_resultStream s.deliverySteps hinv htakes rfl

end Sys2Proof.Machine
end
